-- ==== Sys2Proof/Config.lean ====
section
/-!
DEFINITION. What the block fixes and what the spec leaves open: the parameters of rule R8 (00_scope.md)
at the values assumption 8 names, and the one free value of the model.
-/

namespace Sys2Proof.Config

/-- OPND_W (R8, decision D4): width of the signed VAL and BITS operands. -/
abbrev opndW : Nat := 64

/-- OFF_W (R8, R43, decision D5): width of the transport's offset token. The spec's default. -/
abbrev offW : Nat := 32

/-- TERR_W (R8, decision D13): width of the transport's error code. The spec's default. -/
abbrev terrW : Nat := 8

/-- SIZE_W (R8, decision D4): width of the PACK_SIZE result. -/
abbrev sizeW : Nat := 8

/-- INVALID_CODE (R8, R70, decision D9): the 4-bit status that means INVALID. -/
def invalidCode : BitVec 4 := 0xF#4

/-- OFF_DATA (R8, R89): delta added to ack_offset for the data read. -/
def offData : BitVec offW := 3#offW

/-- OFF_PARITY (R8, R90): delta added to ack_offset for the parity read. -/
def offParity : BitVec offW := 35#offW

/-- FREE VALUE (assumption 2): what RESP_DATA holds after a WRITE, which rule R98 gives no value.
It is applied to the counter `State.freeCount`, which every use advances. Nothing can be proved of it. -/
opaque freeRespData : Nat → BitVec 32

end Sys2Proof.Config
end

