-- ==== Sys2Proof/Word.lean ====
section
/-!
DEFINITION. The words of the block: the formats of rule R60 (30_encoding.md) and the widths of rule R8.
-/

namespace Sys2Proof

/-- The 32-bit data payload (DATA_W). -/
abbrev Data := BitVec 32

/-- A VAL or BITS operand and the PACK working registers (OPND_W bits). -/
abbrev Opnd := BitVec Config.opndW

/-- An offset token of the transport (OFF_W bits). -/
abbrev Off := BitVec Config.offW

/-- A transport error code (TERR_W bits). -/
abbrev TErr := BitVec Config.terrW

/-- One encoded word of the opcode table, in one of its three formats (R60): a command word, an SWD
request header, or a response status. ACK3 is the low three bits of a status and has no row. -/
inductive CodeWord where
  | cw (w : BitVec 16)
  | request (h : BitVec 8)
  | status (s : BitVec 4)
  deriving DecidableEq, Repr

end Sys2Proof
end

