-- ==== Sys2Proof/Syntax.lean ====
section
/-!
DEFINITION. The rows of spec/opcode_table.json, one constructor each: seven command words, four kinds of
SWD request header, four status predicates. Operand buses (cmd_data, cmd_hdr, cmd_val, cmd_bits) are
signals beside the command word (R17), so they are no part of an instruction.
-/

namespace Sys2Proof

inductive Instr where
  /-- BUILD_HEADER (R78): ADDR, AP and D of the command word. -/
  | buildHeader (addr : BitVec 2) (isAp isWrite : Bool)
  /-- DECODE_HEADER (R79). -/
  | decodeHeader
  /-- READ (R86): TXN with D = 0. -/
  | read (addr : BitVec 2) (isAp : Bool)
  /-- WRITE (R93): TXN with D = 1. -/
  | write (addr : BitVec 2) (isAp : Bool)
  /-- PARITY (R112). -/
  | parity
  /-- PACK_SIZE (R114). -/
  | packSize
  /-- PACK (R117): `bitsGiven` is BP. -/
  | pack (bitsGiven : Bool)
  /-- DP_READ (R68): header bit 5 and the register index. -/
  | dpRead (p : Bool) (addr : BitVec 2)
  /-- DP_WRITE (R68). -/
  | dpWrite (p : Bool) (addr : BitVec 2)
  /-- AP_READ (R68). -/
  | apRead (p : Bool) (addr : BitVec 2)
  /-- AP_WRITE (R68). -/
  | apWrite (p : Bool) (addr : BitVec 2)
  /-- IS_ACK (R102). -/
  | isAck
  /-- IS_WAIT (R103). -/
  | isWait
  /-- IS_FAULT (R104). -/
  | isFault
  /-- IS_INVALID (R105). -/
  | isInvalid
  deriving DecidableEq, Repr

end Sys2Proof
end

