-- ==== Sys2Proof/WellFormed.lean ====
section
/-!
DEFINITION. Which instructions are well formed: a request header must satisfy its row's parity constraint
(R66, R68, assumption 7); every operand combination of a command or predicate is legal (R50, R78).
-/

namespace Sys2Proof

/-- The parity bit rule R68 asks of a request header of the given port and direction. -/
def requestParity (isAp isRead : Bool) (addr : BitVec 2) : Bool :=
  isAp ^^ isRead ^^ addr.getLsbD 0 ^^ addr.getLsbD 1

/-- The `constraint` column of rule R68; no other row of the table has one. -/
def Instr.wellFormed : Instr → Bool
  | .dpRead p addr => p == requestParity false true addr
  | .dpWrite p addr => p == requestParity false false addr
  | .apRead p addr => p == requestParity true true addr
  | .apWrite p addr => p == requestParity true false addr
  | .buildHeader _ _ _ => true
  | .decodeHeader => true
  | .read _ _ => true
  | .write _ _ => true
  | .parity => true
  | .packSize => true
  | .pack _ => true
  | .isAck => true
  | .isWait => true
  | .isFault => true
  | .isInvalid => true

end Sys2Proof
end

