-- ==== Sys2Proof/Decode.lean ====
section
/-!
DEFINITION. The decoder and the encoder, from rules R60 to R72 (30_encoding.md) and opcode_table.json.
The decoder reads the fixed bits a row gives and keeps a request header's parity bit in the instruction,
where WellFormed judges it; it rejects every other word by name.
-/

namespace Sys2Proof

/-- Why a word is no instruction of the table. -/
inductive DecodeError where
  /-- A command word with RSV ≠ 0 (R71). -/
  | reservedBits (rsv : BitVec 7)
  /-- A command word whose OP is reserved (R62, R71). -/
  | reservedOp (op : BitVec 4)
  /-- A byte that matches the fixed bits of no request kind (R68, R72). -/
  | notRequest (h : BitVec 8)
  /-- A status that is none of the four named ones (R70, R106). -/
  | unnamedStatus (s : BitVec 4)
  deriving DecidableEq, Repr

/-- The OP field, CW[3:0] (R61). -/
def cwOp (w : BitVec 16) : BitVec 4 := w.extractLsb' 0 4
/-- The D field, CW[4] (R61). -/
def cwD (w : BitVec 16) : Bool := w.getLsbD 4
/-- The AP field, CW[5] (R61). -/
def cwAp (w : BitVec 16) : Bool := w.getLsbD 5
/-- The ADDR field, CW[7:6] (R61). -/
def cwAddr (w : BitVec 16) : BitVec 2 := w.extractLsb' 6 2
/-- The BP field, CW[8] (R61). -/
def cwBp (w : BitVec 16) : Bool := w.getLsbD 8
/-- The RSV field, CW[15:9] (R61). -/
def cwRsv (w : BitVec 16) : BitVec 7 := w.extractLsb' 9 7

/-- A command word (R61, R62, R63): RSV is checked for every OP, and fields an OP does not use are ignored. -/
def decodeCW (w : BitVec 16) : Except DecodeError Instr :=
  if cwRsv w ≠ 0#7 then .error (.reservedBits (cwRsv w))
  else if cwOp w = 0x1#4 then .ok (.buildHeader (cwAddr w) (cwAp w) (cwD w))
  else if cwOp w = 0x2#4 then .ok .decodeHeader
  else if cwOp w = 0x3#4 then
    if cwD w then .ok (.write (cwAddr w) (cwAp w)) else .ok (.read (cwAddr w) (cwAp w))
  else if cwOp w = 0x4#4 then .ok .parity
  else if cwOp w = 0x5#4 then .ok .packSize
  else if cwOp w = 0x6#4 then .ok (.pack (cwBp w))
  else .error (.reservedOp (cwOp w))

/-- An SWD request header (R65, R68): the fixed bits under mask 0xC7 select the kind. -/
def decodeRequest (h : BitVec 8) : Except DecodeError Instr :=
  let p := h.getLsbD 5
  let addr := h.extractLsb' 3 2
  if h &&& 0xC7#8 = 0x85#8 then .ok (.dpRead p addr)
  else if h &&& 0xC7#8 = 0x81#8 then .ok (.dpWrite p addr)
  else if h &&& 0xC7#8 = 0x87#8 then .ok (.apRead p addr)
  else if h &&& 0xC7#8 = 0x83#8 then .ok (.apWrite p addr)
  else .error (.notRequest h)

/-- A response status (R70, R102 to R105): the predicate that is true of it. -/
def decodeStatus (s : BitVec 4) : Except DecodeError Instr :=
  if s = 0x1#4 then .ok .isAck
  else if s = 0x2#4 then .ok .isWait
  else if s = 0x4#4 then .ok .isFault
  else if s = 0xF#4 then .ok .isInvalid
  else .error (.unnamedStatus s)

/-- The decoder over the three formats of the table. -/
def decode : CodeWord → Except DecodeError Instr
  | .cw w => decodeCW w
  | .request h => decodeRequest h
  | .status s => decodeStatus s

/-- A command word from its fields (R61), RSV = 0. -/
def packCW (bp : Bool) (addr : BitVec 2) (isAp d : Bool) (op : BitVec 4) : BitVec 16 :=
  (BitVec.ofBool bp).setWidth 16 <<< 8 ||| addr.setWidth 16 <<< 6 ||| (BitVec.ofBool isAp).setWidth 16 <<< 5 |||
    (BitVec.ofBool d).setWidth 16 <<< 4 ||| op.setWidth 16

/-- An SWD request header from its fields (R65), bit 7 first: park 1, stop 0, parity, A3, A2, RnW, APnDP, start 1. -/
def requestByte (p : Bool) (addr : BitVec 2) (isRead isAp : Bool) : BitVec 8 :=
  0b10#2 ++ BitVec.ofBool p ++ addr ++ BitVec.ofBool isRead ++ BitVec.ofBool isAp ++ 1#1

/-- The encoder: the word of an instruction, every bit its row ignores being 0. -/
def encode : Instr → CodeWord
  | .buildHeader addr isAp isWrite => .cw (packCW false addr isAp isWrite 0x1#4)
  | .decodeHeader => .cw (packCW false 0#2 false false 0x2#4)
  | .read addr isAp => .cw (packCW false addr isAp false 0x3#4)
  | .write addr isAp => .cw (packCW false addr isAp true 0x3#4)
  | .parity => .cw (packCW false 0#2 false false 0x4#4)
  | .packSize => .cw (packCW false 0#2 false false 0x5#4)
  | .pack bitsGiven => .cw (packCW bitsGiven 0#2 false false 0x6#4)
  | .dpRead p addr => .request (requestByte p addr true false)
  | .dpWrite p addr => .request (requestByte p addr false false)
  | .apRead p addr => .request (requestByte p addr true true)
  | .apWrite p addr => .request (requestByte p addr false true)
  | .isAck => .status 0x1#4
  | .isWait => .status 0x2#4
  | .isFault => .status 0x4#4
  | .isInvalid => .status 0xF#4

/-- The format a table word of `nbits` bits has: 16 bits are a command word; of a byte, a status fills only
the low four bits and every request header has bit 7 (park) set, so the two never meet (R60). -/
def tableWord (nbits w : Nat) : CodeWord :=
  if 8 < nbits then .cw (BitVec.ofNat 16 w)
  else if w < 16 then .status (BitVec.ofNat 4 w)
  else .request (BitVec.ofNat 8 w)

/-- The instruction the decoder reads from a table word (the host's probe). -/
def decodeTableWord (nbits w : Nat) : Option Instr :=
  match decode (tableWord nbits w) with
  | .ok i => some i
  | .error _ => none

/-- One row of spec/opcode_table.json: its fixed bits. -/
inductive OpcodeRow where
  | cw (mask pattern : BitVec 16)
  | request (mask pattern : BitVec 8)
  | status (mask pattern : BitVec 4)
  deriving DecidableEq, Repr

/-- The mask and match columns of spec/opcode_table.json. -/
def opcodeRow : Instr → OpcodeRow
  | .buildHeader _ _ _ => .cw 0xFE0F#16 0x0001#16
  | .decodeHeader => .cw 0xFE0F#16 0x0002#16
  | .read _ _ => .cw 0xFE1F#16 0x0003#16
  | .write _ _ => .cw 0xFE1F#16 0x0013#16
  | .parity => .cw 0xFE0F#16 0x0004#16
  | .packSize => .cw 0xFE0F#16 0x0005#16
  | .pack _ => .cw 0xFE0F#16 0x0006#16
  | .dpRead _ _ => .request 0xC7#8 0x85#8
  | .dpWrite _ _ => .request 0xC7#8 0x81#8
  | .apRead _ _ => .request 0xC7#8 0x87#8
  | .apWrite _ _ => .request 0xC7#8 0x83#8
  | .isAck => .status 0xF#4 0x1#4
  | .isWait => .status 0xF#4 0x2#4
  | .isFault => .status 0xF#4 0x4#4
  | .isInvalid => .status 0xF#4 0xF#4

/-- The command-word bits an instruction uses (R63): OP and RSV always, D, AP and ADDR for BUILD_HEADER and
TXN, BP for PACK. -/
def usedBits : Instr → BitVec 16
  | .buildHeader _ _ _ => 0xFEFF#16
  | .decodeHeader => 0xFE0F#16
  | .read _ _ => 0xFEFF#16
  | .write _ _ => 0xFEFF#16
  | .parity => 0xFE0F#16
  | .packSize => 0xFE0F#16
  | .pack _ => 0xFF0F#16
  | .dpRead _ _ | .dpWrite _ _ | .apRead _ _ | .apWrite _ _ => 0#16
  | .isAck | .isWait | .isFault | .isInvalid => 0#16

/-- The bits of a word that its row fixes are the row's. -/
def OpcodeRow.matchesWord : OpcodeRow → CodeWord → Bool
  | .cw mask pat, .cw w => w &&& mask == pat
  | .request mask pat, .request h => h &&& mask == pat
  | .status mask pat, .status s => s &&& mask == pat
  | _, _ => false

end Sys2Proof
end

