-- ==== Sys2Proof/Machine/State.lean ====
section
/-!
DEFINITION. The state of SWDC: its registers (rules R26 to R36), the signals of its three ports (R17, R19,
R22) and what a model keeps beside them. All of it is plain data.
-/

namespace Sys2Proof.Machine

/-- The sixteen states of the sequencer register FSM (R26). -/
inductive Fsm where
  | idle
  | rHdr | rAck | rWin | rTrl | rStat | rData | rPar
  | wHdr | wAck | wTrn | wData | wPar | wStat
  | rsp
  | pkOut
  deriving DecidableEq, Repr

/-- The error kind register ERR (R34, R119). -/
inductive ErrKind where
  | none
  | invalidArgument
  | transportError
  | illegalCommand
  deriving DecidableEq, Repr

/-- The direction hint of a transport WRITE (R22, R84). -/
inductive Dir where
  | host
  | target
  | turn
  deriving DecidableEq, Repr

/-- A transport request (R22). A READ carries no value and a WRITE no offset: those signals are unused by
the request (93_implementation_defined.md N6). -/
inductive TpReq where
  | write (value : BitVec 32) (count : BitVec 6) (dir : Dir)
  | read (offset : Off) (count : BitVec 6)
  deriving DecidableEq, Repr

/-- The transport's response signals (R22). -/
structure TpAnswer where
  err : Bool
  errCode : TErr
  offset : Off
  value : BitVec 32
  deriving DecidableEq, Repr

/-- One event on the transport port, as rules R52 and R100 list them. -/
inductive TpEvent where
  /-- The transport took a request. -/
  | request (r : TpReq)
  /-- It finished a WRITE, whose first bit has this offset. -/
  | wrote (offset : Off)
  /-- It finished a READ: the bits SWDC keeps (R24), zero-extended. -/
  | got (value : BitVec 32)
  /-- The request failed with this code. -/
  | failed (code : TErr)
  deriving DecidableEq, Repr

/-- The fields of the response port (R19). -/
inductive RspField where
  | op | err | errCode | status | data | hasData
  | isAck | isWait | isFault | isInvalid
  | hdr | dec | bit | size | byte | idx | last
  deriving DecidableEq, Repr

/-- The response fields defined in a beat besides rsp_op and rsp_err (R20), one case per row of its table.
rsp_has_data is whether `data` is present, and the four predicates are functions of `status`. -/
inductive RspBody where
  /-- rsp_err ≠ NONE: rsp_err_code only for TRANSPORT_ERROR. -/
  | error (code : Option TErr)
  | header (hdr : BitVec 8)
  | decoded (dec : BitVec 5)
  | txn (status : BitVec 4) (data : Option Data)
  | bit (b : BitVec 1)
  | size (n : BitVec Config.sizeW)
  | byte (b : BitVec 8) (idx : Opnd) (last : Bool)
  /-- No further field is defined (no state of a run offers such a beat). -/
  | empty
  deriving DecidableEq, Repr

/-- A response beat: rsp_op, rsp_err and the fields defined beside them. -/
structure RspBeat where
  op : BitVec 4
  err : ErrKind
  body : RspBody
  deriving DecidableEq, Repr

/-- What the outside does at one event: the input signals of the three ports and rst (R17, R19, R22, R137),
and four things that are no signal of SWDC (assumptions 5, 12, 13). The defaults are the quiet levels. -/
structure Inputs where
  rst : Bool := false
  cmdValid : Bool := false
  cmdWord : BitVec 16 := 0
  cmdData : Data := 0
  cmdHdr : BitVec 8 := 0
  cmdVal : Opnd := 0
  cmdBits : Opnd := 0
  rspReady : Bool := false
  tpReqReady : Bool := false
  tpRspValid : Bool := false
  tpRspErr : Bool := false
  tpRspErrCode : TErr := 0
  tpRspOffset : Off := 0
  tpRspValue : BitVec 32 := 0
  /-- The transport response answers a request that was outstanding at a reset (R139, assumption 12). -/
  tpRspLate : Bool := false
  /-- The caller reads this field of the response port (R128). -/
  sample : Option RspField := none
  /-- The caller's line reset, outside SWDC (R142, R143). -/
  lineReset : Bool := false
  /-- Another user clocks the transport (R145). -/
  foreignUse : Bool := false
  deriving DecidableEq, Repr

/-- Why the machine stops. -/
inductive Fault where
  /-- NoValue (R128): a caller reads a response-port field that has no value in this beat (R20, R107).
  Raised by `sampleField` (assumption 15), hence by the four predicates and by a caller's read. Safe: hardware drives
  something there, and the model claims nothing of it. -/
  | noValue (field : RspField)
  deriving DecidableEq, Repr

/-- Why the model has no meaning for a case. -/
inductive Refusal where
  /-- An instruction whose arm of `exec` is still rejected by name. Safe. -/
  | notModelled (mnemonic : String)
  /-- A PACK whose length exceeds MAX_PACK_BYTES, which rule R117 says a model refuses. Raised by
  `execPack`. Safe. -/
  | packTooLong
  deriving DecidableEq, Repr

/-- The state of the machine. -/
structure State where
  /-- FSM (R26). -/
  fsm : Fsm
  /-- OP (R28). -/
  op : BitVec 4
  /-- IS_WR (R28). -/
  isWr : Bool
  /-- HDR (R29). -/
  hdr : BitVec 8
  /-- WDATA (R30). -/
  wdata : Data
  /-- ACKOFF (R31). -/
  ackOff : Off
  /-- ACKRAW (R31). -/
  ackRaw : BitVec 3
  /-- RDATA (R31). -/
  rdata : Data
  /-- PBIT (R31). -/
  pbit : BitVec 1
  /-- RESP_STATUS (R32). -/
  respStatus : BitVec 4
  /-- RESP_DATA (R33). -/
  respData : Data
  /-- RESP_HAS_DATA (R33). -/
  respHasData : Bool
  /-- RESP_VALID (R34). -/
  respValid : Bool
  /-- ERR (R34). -/
  err : ErrKind
  /-- ERR_CODE (R34). -/
  errCode : TErr
  /-- RES_HDR (R35). -/
  resHdr : BitVec 8
  /-- RES_DEC (R35): WF, IS_WRITE, APNDP, ADDR from bit 4 down. -/
  resDec : BitVec 5
  /-- RES_BIT (R35). -/
  resBit : BitVec 1
  /-- RES_SIZE (R35). -/
  resSize : BitVec Config.sizeW
  /-- PK_VAL (R36). -/
  pkVal : Opnd
  /-- PK_LEN (R36). -/
  pkLen : Opnd
  /-- PK_IDX (R36). -/
  pkIdx : Opnd
  /-- The request of the present transaction state has been taken by the transport and is not answered
  yet (R22, R23): a transfer in progress, which tp_req_valid implies (assumption 9). -/
  tpTaken : Bool
  /-- What the outside does at this event (the head) and at the events after it (assumption 3). -/
  inputs : List Inputs
  /-- The transport events so far, oldest first (R52, assumption 13). -/
  tpLog : List TpEvent
  /-- The response beats taken so far, oldest first (R119, assumption 13). -/
  rspLog : List RspBeat
  /-- What the caller has read from the response port, oldest first (R128, assumption 13). -/
  samples : List (RspField × Opnd)
  /-- The premise "the line is framed" of rule R141 (assumption 5). -/
  lineFramed : Bool
  /-- How many free values have been used (assumption 2). -/
  freeCount : Nat
  /-- MAX_PACK_BYTES (R8, decision D22), `none` when unbounded (assumption 6). -/
  maxPackBytes : Option Nat
  deriving DecidableEq, Repr

/-- The machine right after reset (R39, R137): FSM = IDLE, RESP_VALID = 0, ERR = NONE. The spec gives no
other register a value; each is zero here (DESIGN CHOICE, assumption 1). -/
def State.reset : State where
  fsm := .idle
  op := 0
  isWr := false
  hdr := 0
  wdata := 0
  ackOff := 0
  ackRaw := 0
  rdata := 0
  pbit := 0
  respStatus := 0
  respData := 0
  respHasData := false
  respValid := false
  err := .none
  errCode := 0
  resHdr := 0
  resDec := 0
  resBit := 0
  resSize := 0
  pkVal := 0
  pkLen := 0
  pkIdx := 0
  tpTaken := false
  inputs := []
  tpLog := []
  rspLog := []
  samples := []
  lineFramed := false
  freeCount := 0
  maxPackBytes := none

end Sys2Proof.Machine
end

