-- ==== Sys2Proof/Machine/Flags.lean ====
section
/-!
DEFINITION. The only condition codes SWDC has (R37): the four predicates of RESP_STATUS (R102 to R105),
and the numeric codes of FSM, ERR, the direction hint and the request kind (R26, R119, R22).
-/

namespace Sys2Proof.Machine

/-- `is_ack(s)` (R102). -/
def isAck (s : BitVec 4) : Bool := s == 0x1#4
/-- `is_wait(s)` (R103). -/
def isWait (s : BitVec 4) : Bool := s == 0x2#4
/-- `is_fault(s)` (R104). -/
def isFault (s : BitVec 4) : Bool := s == 0x4#4
/-- `is_invalid(s)` (R105). -/
def isInvalid (s : BitVec 4) : Bool := s == Config.invalidCode

/-- The status of a READ acknowledged with ACK, by the parity of its data and the parity bit read back (R90). -/
def parityStatus (computed readBack : BitVec 1) : BitVec 4 :=
  if computed = readBack then 0x1#4 else Config.invalidCode

/-- The numeric code of an error kind (R119). -/
def errBits : ErrKind → BitVec 2
  | .none => 0
  | .invalidArgument => 1
  | .transportError => 2
  | .illegalCommand => 3

/-- The numeric code of an FSM state (R26). -/
def fsmBits : Fsm → BitVec 4
  | .idle => 0x0
  | .rHdr => 0x1
  | .rAck => 0x2
  | .rWin => 0x3
  | .rTrl => 0x4
  | .rStat => 0x5
  | .rData => 0x6
  | .rPar => 0x7
  | .wHdr => 0x8
  | .wAck => 0x9
  | .wTrn => 0xA
  | .wData => 0xB
  | .wPar => 0xC
  | .wStat => 0xD
  | .rsp => 0xE
  | .pkOut => 0xF

/-- The numeric code of a direction hint (R22): 3 is never driven. -/
def dirBits : Dir → BitVec 2
  | .host => 0
  | .target => 1
  | .turn => 2

/-- The numeric code of tp_req_kind (R22): 0 is WRITE, 1 is READ. -/
def tpKindBits : TpReq → BitVec 1
  | .write _ _ _ => 0
  | .read _ _ => 1

/-- The READ transaction states (R26, R85). -/
def Fsm.inRead : Fsm → Bool
  | .rHdr | .rAck | .rWin | .rTrl | .rStat | .rData | .rPar => true
  | .idle | .wHdr | .wAck | .wTrn | .wData | .wPar | .wStat | .rsp | .pkOut => false

/-- The WRITE transaction states (R26, R92). -/
def Fsm.inWrite : Fsm → Bool
  | .wHdr | .wAck | .wTrn | .wData | .wPar | .wStat => true
  | .idle | .rHdr | .rAck | .rWin | .rTrl | .rStat | .rData | .rPar | .rsp | .pkOut => false

/-- The transaction states R_HDR to W_STAT (R83). -/
def Fsm.inTxn (f : Fsm) : Bool := f.inRead || f.inWrite

end Sys2Proof.Machine
end

