-- ==== Sys2Proof/Machine/Operands.lean ====
section
/-!
DEFINITION. Operand assembly (R64) and the arithmetic of the leaf utilities (R110 to R116).
-/

namespace Sys2Proof.Machine

/-- `sint_OPND_W` (R10, R64): an operand bus as a two's-complement integer. -/
def sintOpnd (v : Opnd) : Int := v.toInt

/-- The BITS operand (R64): present when BP = 1, ABSENT otherwise. -/
def bitsOperand (bitsGiven : Bool) (bus : Opnd) : Option Int :=
  if bitsGiven then some (sintOpnd bus) else none

/-- How many of the bits 0 to k-1 of n are set (R9). -/
def popcount : Nat → Nat → Nat
  | 0, _ => 0
  | k + 1, n => popcount k n + (n.testBit k).toNat

/-- `parity(n)` (R110): no value for a negative n. -/
def parity (n : Int) : Option (BitVec 1) :=
  if n < 0 then none else some (BitVec.ofNat 1 (popcount Config.opndW n.toNat % 2))

/-- The exclusive or of bits 0 to k-1 of x. -/
def xorBits (x : Data) : Nat → Bool
  | 0 => false
  | k + 1 => xorBits x k ^^ x.getLsbD k

/-- `parity32(x)` (R111): x[0] ^ x[1] ^ … ^ x[31]. -/
def parity32 (x : Data) : BitVec 1 := BitVec.ofBool (xorBits x 32)

/-- The least k, counted up from the given one for at most `fuel` tries, with v < 2^(8k). -/
def leastBytes (v : Nat) : Nat → Nat → Nat
  | 0, k => k
  | fuel + 1, k => if v < 2 ^ (8 * k) then k else leastBytes v fuel (k + 1)

/-- `pack_size(v)` (R113): no value for a negative v. -/
def packSize (v : Int) : Option Nat :=
  if v < 0 then none
  else if v = 0 then some 1
  else some (leastBytes v.toNat (Config.opndW / 8) 1)

/-- The length L of `pack(v, bits)` (R115, R116): `none` is InvalidArgument. -/
def packLength (v : Int) (bits : Option Int) : Option Nat :=
  if v < 0 then none
  else
    match bits with
    | none => packSize v
    | some b => if b ≤ 0 then none else some ((b.toNat + 7) / 8)

/-- Byte i of a PACK output (R117): `(PK_VAL >> (8*PK_IDX)) & 0xFF`, 0 when 8*PK_IDX ≥ OPND_W. -/
def packByte (v i : Opnd) : BitVec 8 :=
  if Config.opndW ≤ 8 * i.toNat then 0#8 else v.extractLsb' (8 * i.toNat) 8

/-- L > MAX_PACK_BYTES (R117). -/
def exceeds (limit : Option Nat) (len : Nat) : Bool :=
  match limit with
  | none => false
  | some m => decide (m < len)

/-- `zext_4` of an acknowledge code (R10, R85). -/
def ackStatus (code : BitVec 3) : BitVec 4 := code.setWidth 4

/-- `TRead(o, n)` of an answer (R24): only the low n bits of tp_rsp_value are kept. -/
def readBits (n : Nat) (a : TpAnswer) : BitVec n := a.value.setWidth n

end Sys2Proof.Machine
end

