-- ==== Sys2Proof/Machine/Port.lean ====
section
/-!
DEFINITION. The output signals of the command and response ports, as functions of the state (R17, R19, R20).
-/

namespace Sys2Proof.Machine

/-- cmd_ready (R17). -/
def State.cmdReady (s : State) : Bool := s.fsm == .idle

/-- rsp_valid (R19). -/
def State.rspValid (s : State) : Bool := s.fsm == .rsp || s.fsm == .pkOut

/-- A response beat of a TXN that completed without error is offered (R107). -/
def State.txnOffered (s : State) : Bool :=
  s.fsm == .rsp && s.op == 0x3#4 && s.err == .none && s.respValid

/-- The fields defined in a beat besides rsp_op and rsp_err (R20, R107). -/
def rspBody (s : State) : RspBody :=
  match s.err with
  | .transportError => .error (some s.errCode)
  | .invalidArgument => .error none
  | .illegalCommand => .error none
  | .none =>
    if s.op = 0x1#4 then .header s.resHdr
    else if s.op = 0x2#4 then .decoded s.resDec
    else if s.op = 0x3#4 then
      if s.respValid then .txn s.respStatus (if s.respHasData then some s.respData else none) else .empty
    else if s.op = 0x4#4 then .bit s.resBit
    else if s.op = 0x5#4 then .size s.resSize
    else if s.op = 0x6#4 then .byte (packByte s.pkVal s.pkIdx) s.pkIdx (s.pkIdx == s.pkLen - 1)
    else .empty

/-- The beat on the response port, when one is offered (R19, R21). -/
def rspPort (s : State) : Option RspBeat :=
  if s.rspValid then some { op := s.op, err := s.err, body := rspBody s } else none

/-- A Boolean signal as an operand-wide value. -/
def bitValue (b : Bool) : Opnd := (BitVec.ofBool b).setWidth Config.opndW

/-- A response-port field of a beat, zero-extended; `none` where the field has no value (R20). -/
def RspBeat.field (b : RspBeat) : RspField → Option Opnd
  | .op => some (b.op.setWidth _)
  | .err => some ((errBits b.err).setWidth _)
  | .errCode => match b.body with
    | .error (some c) => some (c.setWidth _)
    | _ => none
  | .status => match b.body with
    | .txn st _ => some (st.setWidth _)
    | _ => none
  | .data => match b.body with
    | .txn _ (some d) => some (d.setWidth _)
    | _ => none
  | .hasData => match b.body with
    | .txn _ d => some (bitValue d.isSome)
    | _ => none
  | .isAck => match b.body with
    | .txn st _ => some (bitValue (Sys2Proof.Machine.isAck st))
    | _ => none
  | .isWait => match b.body with
    | .txn st _ => some (bitValue (Sys2Proof.Machine.isWait st))
    | _ => none
  | .isFault => match b.body with
    | .txn st _ => some (bitValue (Sys2Proof.Machine.isFault st))
    | _ => none
  | .isInvalid => match b.body with
    | .txn st _ => some (bitValue (Sys2Proof.Machine.isInvalid st))
    | _ => none
  | .hdr => match b.body with
    | .header h => some (h.setWidth _)
    | _ => none
  | .dec => match b.body with
    | .decoded d => some (d.setWidth _)
    | _ => none
  | .bit => match b.body with
    | .bit v => some (v.setWidth _)
    | _ => none
  | .size => match b.body with
    | .size n => some (n.setWidth _)
    | _ => none
  | .byte => match b.body with
    | .byte v _ _ => some (v.setWidth _)
    | _ => none
  | .idx => match b.body with
    | .byte _ i _ => some i
    | _ => none
  | .last => match b.body with
    | .byte _ _ l => some (bitValue l)
    | _ => none

/-- What a caller reads on a response-port field now; `none` is no value (R20, R107). -/
def portField (s : State) (f : RspField) : Option Opnd :=
  match rspPort s with
  | some b => b.field f
  | none => none

end Sys2Proof.Machine
end

