-- ==== Sys2Proof/Machine/Ops.lean ====
section
/-!
DEFINITION. The named operations every meaning is built from: the present event's inputs, the command beat,
the response (`emit`), the error (`raise`), the transport request, and the return to IDLE. SWDC owns no
memory (R41), so there are no memory operations.
-/

namespace Sys2Proof.Machine

/-- Goes on with the next state of an outcome; a fault or a refusal ends the step. -/
def andThen (o : Host.Outcome State Fault Refusal) (f : State → Host.Outcome State Fault Refusal) :
    Host.Outcome State Fault Refusal :=
  match o with
  | .next t => f t
  | .fault r => .fault r
  | .refused r => .refused r

/-- What the outside does at this event; nothing when no event is listed (assumption 3). -/
def State.now (s : State) : Inputs :=
  match s.inputs with
  | [] => {}
  | e :: _ => e

/-- The event is over. -/
def State.consume (s : State) : State := { s with inputs := s.inputs.tail }

/-- `emit` for every response but a PACK byte (R13, R21): FSM ← RSP. -/
def emit (s : State) : State := { s with fsm := .rsp }

/-- TAKING AN ERROR, `raise E(info)` (R13, R120): ERR ← E, ERR_CODE ← info when there is one, one error
beat; no result register is written and RESP_VALID keeps its value. -/
def raise (e : ErrKind) (info : Option TErr) (s : State) : State :=
  emit { s with err := e, errCode := info.getD s.errCode }

/-- The response beat is taken: it is recorded as rule R20 defines it. -/
def logBeat (s : State) : State :=
  match rspPort s with
  | some b => { s with rspLog := s.rspLog ++ [b] }
  | none => s

/-- RETURNING, from an error beat as from any other (R21, R120, R127): FSM ← IDLE at the beat. -/
def takeBeat (s : State) : State := { logBeat s with fsm := .idle }

/-- A command beat happens only in IDLE (R18); in any other state the caller waits and nothing changes
(assumption 11). -/
def atCommandBeat (s : State) (k : State → Host.Outcome State Fault Refusal) : Host.Outcome State Fault Refusal :=
  if s.fsm = .idle then k s else .next s

/-- Records a transport event (R52). -/
def logTp (e : TpEvent) (s : State) : State := { s with tpLog := s.tpLog ++ [e] }

/-- The transport response of this event, when it answers the request now outstanding: a response that
answers a request outstanding at a reset is ignored (R139). -/
def Inputs.answer (e : Inputs) : Option TpAnswer :=
  if e.tpRspValid && !e.tpRspLate then
    some { err := e.tpRspErr, errCode := e.tpRspErrCode, offset := e.tpRspOffset, value := e.tpRspValue }
  else none

/-- What an answer to a request is recorded as (R11, R24). -/
def answerEvent (r : TpReq) (a : TpAnswer) : TpEvent :=
  if a.err then .failed a.errCode
  else
    match r with
    | .write _ _ _ => .wrote a.offset
    | .read _ n => .got (a.value &&& (BitVec.allOnes 32 >>> (32 - n.toNat)))

/-- `abort(code)` (R99): TRANSPORT_ERROR with the transport's code, and the line's framing is unknown
from here on (R141). -/
def abort (code : TErr) (s : State) : State :=
  { raise .transportError (some code) s with lineFramed := false }

/-- One event of an outstanding transport request (R22, R23, R83): the request is offered until the
transport takes it, then SWDC waits for the answer; a failed one aborts, any other does `onOk`. -/
def transportBeat (r : TpReq) (onOk : TpAnswer → State → State) (s : State) : State :=
  if s.tpTaken then
    match s.now.answer with
    | none => s
    | some a =>
      let t := logTp (answerEvent r a) { s with tpTaken := false }
      if a.err then abort a.errCode t else onOk a t
  else if s.now.tpReqReady then logTp (.request r) { s with tpTaken := true }
  else s

/-- Records what the caller has read. -/
def addSamples (l : List (RspField × Opnd)) (s : State) : State := { s with samples := s.samples ++ l }

/-- The caller reads a field of the response port (R128): NoValue where the field has none. -/
def sampleField (f : RspField) (s : State) : Host.Outcome State Fault Refusal :=
  match portField s f with
  | some v => .next (addSamples [(f, v)] s)
  | none => .fault (.noValue f)

end Sys2Proof.Machine
end

