-- ==== Sys2Proof/Machine/HeaderCodec.lean ====
section
/-!
DEFINITION. The request header codec (40_header_codec.md): its two functions and its two commands.
-/

namespace Sys2Proof.Machine

/-- `encode_header` (R76): the parity is computed on the read bit. -/
def encodeHeader (addr : BitVec 2) (isAp isWrite : Bool) : BitVec 8 :=
  let r := !isWrite
  let a2 := addr.getLsbD 0
  let a3 := addr.getLsbD 1
  let p := isAp ^^ r ^^ a2 ^^ a3
  1#1 ++ 0#1 ++ BitVec.ofBool p ++ BitVec.ofBool a3 ++ BitVec.ofBool a2 ++ BitVec.ofBool r ++
    BitVec.ofBool isAp ++ 1#1

/-- The result of `decode_header` (R77). -/
structure HeaderFields where
  addr : BitVec 2
  isAp : Bool
  isWrite : Bool
  wf : Bool
  deriving DecidableEq, Repr

/-- `decode_header` (R77), for any byte. -/
def headerFields (h : BitVec 8) : HeaderFields where
  addr := h.extractLsb' 3 2
  isAp := h.getLsbD 1
  isWrite := !h.getLsbD 2
  wf := h.getLsbD 0 && !h.getLsbD 6 && h.getLsbD 7 &&
    (h.getLsbD 5 == (h.getLsbD 1 ^^ h.getLsbD 2 ^^ h.getLsbD 3 ^^ h.getLsbD 4))

/-- RES_DEC of a byte (R79): {WF, IS_WRITE, APNDP, ADDR}. -/
def decWord (f : HeaderFields) : BitVec 5 :=
  BitVec.ofBool f.wf ++ BitVec.ofBool f.isWrite ++ BitVec.ofBool f.isAp ++ f.addr

/-- BUILD_HEADER (R78). -/
def execBuildHeader (addr : BitVec 2) (isAp isWrite : Bool) (s : State) : Host.Outcome State Fault Refusal :=
  atCommandBeat s fun s =>
    .next (emit { s with op := 0x1, resHdr := encodeHeader addr isAp isWrite, err := .none })

/-- DECODE_HEADER (R79), on the cmd_hdr bus. -/
def execDecodeHeader (s : State) : Host.Outcome State Fault Refusal :=
  atCommandBeat s fun s =>
    .next (emit { s with op := 0x2, resDec := decWord (headerFields s.now.cmdHdr), err := .none })

end Sys2Proof.Machine
end

