-- ==== Sys2Proof/Machine/Transaction.lean ====
section
/-!
DEFINITION. READ and WRITE (41_transactions.md): the command beat, the two state machines as the tables of
rules R85 and R92, and completion. The abort is `abort` of Ops.
-/

namespace Sys2Proof.Machine

/-- The command beat of a TXN (R82). -/
def startTxn (addr : BitVec 2) (isAp isWrite : Bool) (s : State) : State :=
  { s with
    op := 0x3
    isWr := isWrite
    hdr := encodeHeader addr isAp isWrite
    wdata := if isWrite then s.now.cmdData else s.wdata
    respValid := false
    tpTaken := false
    fsm := if isWrite then .wHdr else .rHdr }

/-- READ (R86): its command beat; `transactionBeat` runs the rest, one request per state. -/
def execRead (addr : BitVec 2) (isAp : Bool) (s : State) : Host.Outcome State Fault Refusal :=
  atCommandBeat s fun s => .next (startTxn addr isAp false s)

/-- WRITE (R93): its command beat; `transactionBeat` runs the rest, one request per state. -/
def execWrite (addr : BitVec 2) (isAp : Bool) (s : State) : Host.Outcome State Fault Refusal :=
  atCommandBeat s fun s => .next (startTxn addr isAp true s)

/-- The header phase's request: TWrite(header, 8, HOST) (R85, R92). -/
def headerRequest (h : BitVec 8) : TpReq := .write (h.setWidth 32) 8 .host

/-- The request of each transaction state: the `request issued` column of rules R85 and R92, with the
direction hints of rule R84. The offset sums wrap (R43). -/
def stateRequest (s : State) : Option TpReq :=
  match s.fsm with
  | .rHdr => some (headerRequest s.hdr)
  | .rAck => some (.write 0 3 .target)
  | .rWin => some (.write 0 32 .target)
  | .rTrl => some (.write 0 8 .target)
  | .rStat => some (.read s.ackOff 8)
  | .rData => some (.read (s.ackOff + Config.offData) 32)
  | .rPar => some (.read (s.ackOff + Config.offParity) 1)
  | .wHdr => some (headerRequest s.hdr)
  | .wAck => some (.write 0 3 .target)
  | .wTrn => some (.write 0 2 .turn)
  | .wData => some (.write s.wdata 32 .host)
  | .wPar => some (.write ((parity32 s.wdata).setWidth 32) 1 .host)
  | .wStat => some (.read s.ackOff 8)
  | .idle | .rsp | .pkOut => none

/-- The request on the transport port: tp_req_valid with its fields (R22). -/
def State.tpReqPort (s : State) : Option TpReq := if s.tpTaken then none else stateRequest s

/-- tp_req_valid (R22). -/
def State.tpReqValid (s : State) : Bool := s.tpReqPort.isSome

/-- tp_req_value (R22): unused by a READ (93_implementation_defined.md N6). -/
def TpReq.value : TpReq → Option (BitVec 32)
  | .write v _ _ => some v
  | .read _ _ => none

/-- tp_req_count (R22). -/
def TpReq.count : TpReq → BitVec 6
  | .write _ n _ => n
  | .read _ n => n

/-- tp_req_offset (R22): unused by a WRITE (93_implementation_defined.md N6). -/
def TpReq.offset : TpReq → Option Off
  | .write _ _ _ => none
  | .read o _ => some o

/-- tp_req_dir (R22): the hint of a WRITE. -/
def TpReq.dir : TpReq → Option (BitVec 2)
  | .write _ _ d => some (dirBits d)
  | .read _ _ => none

/-- `complete(status, data, has_data)` (R98). Without data RESP_DATA gets a free value (assumption 2). -/
def complete (status : BitVec 4) (data : Option Data) (s : State) : State :=
  match data with
  | some d =>
    emit { s with respStatus := status, respData := d, respHasData := true, respValid := true, err := .none }
  | none =>
    emit { s with
      respStatus := status
      respData := Config.freeRespData s.freeCount
      freeCount := s.freeCount + 1
      respHasData := false
      respValid := true
      err := .none }

/-- The low three bits of a status read (R69, R89). -/
def ackCode (a : TpAnswer) : BitVec 3 := (readBits 8 a).setWidth 3

/-- The data read of a READ (R85, state R_DATA): the parity read follows only on ACK (R90, R91). -/
def afterData (d : Data) (s : State) : State :=
  if s.ackRaw = 0b001#3 then { s with rdata := d, fsm := .rPar }
  else complete (ackStatus s.ackRaw) (some d) { s with rdata := d }

/-- The parity read of a READ (R85, state R_PAR; R90). -/
def afterParity (b : BitVec 1) (s : State) : State :=
  complete (parityStatus (parity32 s.rdata) b) (some s.rdata) { s with pbit := b }

/-- The `action on success` and `next state` columns of rules R85 and R92. -/
def advance (a : TpAnswer) (s : State) : State :=
  match s.fsm with
  | .rHdr => { s with fsm := .rAck }
  | .rAck => { s with ackOff := a.offset, fsm := .rWin }
  | .rWin => { s with fsm := .rTrl }
  | .rTrl => { s with fsm := .rStat }
  | .rStat => { s with ackRaw := ackCode a, fsm := .rData }
  | .rData => afterData (readBits 32 a) s
  | .rPar => afterParity (readBits 1 a) s
  | .wHdr => { s with fsm := .wAck }
  | .wAck => { s with ackOff := a.offset, fsm := .wTrn }
  | .wTrn => { s with fsm := .wData }
  | .wData => { s with fsm := .wPar }
  | .wPar => { s with fsm := .wStat }
  | .wStat => complete (ackStatus (ackCode a)) none { s with ackRaw := ackCode a }
  | .idle | .rsp | .pkOut => s

/-- One event of a transaction state (R83). -/
def transactionBeat (s : State) : State :=
  match stateRequest s with
  | some r => transportBeat r advance s
  | none => s

end Sys2Proof.Machine
end

