-- ==== Sys2Proof/Machine/Request.lean ====
section
/-!
DEFINITION. The four SWD request kinds (R68) as what the block does with them: the header phase of a
transaction, the first request of states R_HDR and W_HDR (R85, R92).
-/

namespace Sys2Proof.Machine

/-- One event of the header phase: TWrite(header, 8, HOST), then the acknowledge state. Outside the two
header states no header is on its way and nothing changes (assumption 11). -/
def headerBeat (h : BitVec 8) (s : State) : State :=
  if s.fsm = .rHdr ∨ s.fsm = .wHdr then transportBeat (headerRequest h) advance s else s

/-- DP_READ (R68). -/
def execDpRead (p : Bool) (addr : BitVec 2) (s : State) : Host.Outcome State Fault Refusal :=
  .next (headerBeat (requestByte p addr true false) s)

/-- DP_WRITE (R68). -/
def execDpWrite (p : Bool) (addr : BitVec 2) (s : State) : Host.Outcome State Fault Refusal :=
  .next (headerBeat (requestByte p addr false false) s)

/-- AP_READ (R68). -/
def execApRead (p : Bool) (addr : BitVec 2) (s : State) : Host.Outcome State Fault Refusal :=
  .next (headerBeat (requestByte p addr true true) s)

/-- AP_WRITE (R68). -/
def execApWrite (p : Bool) (addr : BitVec 2) (s : State) : Host.Outcome State Fault Refusal :=
  .next (headerBeat (requestByte p addr false true) s)

end Sys2Proof.Machine
end

