-- ==== Sys2Proof/Machine/Response.lean ====
section
/-!
DEFINITION. The response decoder's four predicates (42_response.md): each is the value the caller reads on
its output, and has none outside a response beat of a TXN that completed without error (R107).
-/

namespace Sys2Proof.Machine

/-- IS_ACK (R102). -/
def execIsAck (s : State) : Host.Outcome State Fault Refusal := sampleField .isAck s

/-- IS_WAIT (R103). -/
def execIsWait (s : State) : Host.Outcome State Fault Refusal := sampleField .isWait s

/-- IS_FAULT (R104). -/
def execIsFault (s : State) : Host.Outcome State Fault Refusal := sampleField .isFault s

/-- IS_INVALID (R105). -/
def execIsInvalid (s : State) : Host.Outcome State Fault Refusal := sampleField .isInvalid s

end Sys2Proof.Machine
end

