-- ==== Sys2Proof/Machine/Utility.lean ====
section
/-!
DEFINITION. The parity unit and the byte packer (43_utilities.md).
-/

namespace Sys2Proof.Machine

/-- PARITY (R112), on the cmd_val bus. -/
def execParity (s : State) : Host.Outcome State Fault Refusal :=
  atCommandBeat s fun s =>
    let t := { s with op := 0x4 }
    match parity (sintOpnd s.now.cmdVal) with
    | none => .next (raise .invalidArgument none t)
    | some b => .next (emit { t with resBit := b, err := .none })

/-- PACK_SIZE (R114), on the cmd_val bus. -/
def execPackSize (s : State) : Host.Outcome State Fault Refusal :=
  atCommandBeat s fun s =>
    let t := { s with op := 0x5 }
    match packSize (sintOpnd s.now.cmdVal) with
    | none => .next (raise .invalidArgument none t)
    | some k => .next (emit { t with resSize := BitVec.ofNat Config.sizeW k, err := .none })

/-- PACK (R117), on the cmd_val and cmd_bits buses: its command beat. `packBeat` offers the bytes. -/
def execPack (bitsGiven : Bool) (s : State) : Host.Outcome State Fault Refusal :=
  atCommandBeat s fun s =>
    let t := { s with op := 0x6 }
    match packLength (sintOpnd s.now.cmdVal) (bitsOperand bitsGiven s.now.cmdBits) with
    | none => .next (raise .invalidArgument none t)
    | some len =>
      if exceeds s.maxPackBytes len then .refused .packTooLong
      else .next { t with
        pkVal := s.now.cmdVal
        pkLen := BitVec.ofNat Config.opndW len
        pkIdx := 0
        err := .none
        fsm := .pkOut }

/-- State PK_OUT when the caller takes the offered byte (R117). -/
def packBeat (s : State) : State :=
  if s.pkIdx = s.pkLen - 1 then takeBeat s
  else { logBeat s with pkIdx := s.pkIdx + 1 }

end Sys2Proof.Machine
end

