-- ==== Sys2Proof/Machine/Dispatch.lean ====
section
/-!
DEFINITION. The dispatch of an instruction to its meaning.
-/

namespace Sys2Proof.Machine

def exec (i : Instr) (s : State) : Host.Outcome State Fault Refusal :=
  match i with
  | .buildHeader addr isAp isWrite => Sys2Proof.Machine.execBuildHeader addr isAp isWrite s
  | .decodeHeader => Sys2Proof.Machine.execDecodeHeader s
  | .read addr isAp => Sys2Proof.Machine.execRead addr isAp s
  | .write addr isAp => Sys2Proof.Machine.execWrite addr isAp s
  | .parity => Sys2Proof.Machine.execParity s
  | .packSize => Sys2Proof.Machine.execPackSize s
  | .pack bitsGiven => Sys2Proof.Machine.execPack bitsGiven s
  | .dpRead p addr => Sys2Proof.Machine.execDpRead p addr s
  | .dpWrite p addr => Sys2Proof.Machine.execDpWrite p addr s
  | .apRead p addr => Sys2Proof.Machine.execApRead p addr s
  | .apWrite p addr => Sys2Proof.Machine.execApWrite p addr s
  | .isAck => Sys2Proof.Machine.execIsAck s
  | .isWait => Sys2Proof.Machine.execIsWait s
  | .isFault => Sys2Proof.Machine.execIsFault s
  | .isInvalid => Sys2Proof.Machine.execIsInvalid s

end Sys2Proof.Machine
end

