-- ==== Sys2Proof/Machine/Cycle.lean ====
section
/-!
DEFINITION. What happens at one event around the instruction that runs at it: where the instruction comes
from, the events that run none, reset, and the caller's own acts.
-/

namespace Sys2Proof.Machine

/-- A transaction is under way, from its first request to its response beat (R145). -/
def State.usesTransport (s : State) : Bool :=
  s.fsm.inTxn || (s.fsm == .rsp && s.op == 0x3#4 && s.err != .illegalCommand)

/-- The premise "the line is framed" (R141, R143, R145): a line reset of the caller gives it, another
user of the transport during a transaction, the caller's line reset among them, takes it. -/
def noteLine (s : State) : State :=
  { s with lineFramed :=
      if s.now.lineReset then !s.usesTransport
      else s.lineFramed && !(s.now.foreignUse && s.usesTransport) }

/-- rst (R137, R139): every register takes its reset value, a transaction is abandoned and no request is
issued. A reset in a transaction state leaves the line's framing unknown (R141). What is no register of SWDC
stays (assumption 14). -/
def hardReset (s : State) : State :=
  { State.reset with
    inputs := s.inputs
    tpLog := s.tpLog
    rspLog := s.rspLog
    samples := s.samples
    lineFramed := s.lineFramed && !s.fsm.inTxn
    freeCount := s.freeCount
    maxPackBytes := s.maxPackBytes }

/-- An illegal command word (R123): OP ← CW[3:0] and ILLEGAL_COMMAND; no other register changes. -/
def illegalCommand (w : BitVec 16) (s : State) : State :=
  raise .illegalCommand none { s with op := cwOp w }

/-- The word the present event runs: the command word at a command beat (R18), the HDR register in the
header phase (R85, R92), RESP_STATUS when the caller takes a completed transaction's response (R107). -/
def fetchWord (s : State) : Option CodeWord :=
  match s.fsm with
  | .idle => if s.now.cmdValid then some (.cw s.now.cmdWord) else none
  | .rHdr => some (.request s.hdr)
  | .wHdr => some (.request s.hdr)
  | .rsp => if s.now.rspReady && s.txnOffered then some (.status s.respStatus) else none
  | .rAck | .rWin | .rTrl | .rStat | .rData | .rPar => none
  | .wAck | .wTrn | .wData | .wPar | .wStat => none
  | .pkOut => none

/-- The instruction the present event runs. -/
def fetched (s : State) : Option Instr :=
  match fetchWord s with
  | none => none
  | some c =>
    match decode c with
    | .ok i => some i
    | .error _ => none

/-- What the event adds after the instruction: the response beat that showed a status is taken (R98). -/
def afterExec (f : Fsm) (t : State) : State := if f = .rsp then takeBeat t else t

/-- What an event does that runs no instruction. -/
def background (s : State) : State :=
  match s.fsm with
  | .idle => if s.now.cmdValid then illegalCommand s.now.cmdWord s else s
  | .rsp => if s.now.rspReady then takeBeat s else s
  | .pkOut => if s.now.rspReady then packBeat s else s
  | .rHdr | .rAck | .rWin | .rTrl | .rStat | .rData | .rPar => transactionBeat s
  | .wHdr | .wAck | .wTrn | .wData | .wPar | .wStat => transactionBeat s

/-- The block's own part of an event. -/
def runEvent (s : State) : Host.Outcome State Fault Refusal :=
  match fetched s with
  | some i => andThen (exec i s) fun t => .next (afterExec s.fsm t)
  | none => .next (background s)

/-- The caller's read of a response-port field at this event, if it makes one (R128). -/
def callerSample (s : State) : Host.Outcome State Fault Refusal :=
  match s.now.sample with
  | none => .next s
  | some f => sampleField f s

/-- One event: the caller's acts outside SWDC, then rst, or the caller's read and the block's own part
(assumption 10). -/
def event (s : State) : Host.Outcome State Fault Refusal :=
  let s := noteLine s
  if s.now.rst then .next (hardReset s).consume
  else andThen (callerSample s) fun s => andThen (runEvent s) fun t => .next t.consume

/-- The present event's inputs replaced by `e`. -/
def State.withNow (s : State) (e : Inputs) : State := { s with inputs := e :: s.inputs.tail }

/-- The word offered on the command port in IDLE, the operand buses as they are. -/
def placeCommand (w : BitVec 16) (s : State) : State :=
  { s with fsm := .idle }.withNow { s.now with rst := false, sample := none, cmdValid := true, cmdWord := w }

/-- The word as the header of a transaction whose header request the transport takes now. -/
def placeRequest (h : BitVec 8) (s : State) : State :=
  { s with fsm := if h.getLsbD 2 then .rHdr else .wHdr, op := 0x3, isWr := !h.getLsbD 2, hdr := h, tpTaken := false }.withNow
    { s.now with rst := false, sample := none, tpReqReady := true }

/-- The word as the status of a completed transaction whose response the caller takes now. -/
def placeStatus (st : BitVec 4) (s : State) : State :=
  { s with fsm := .rsp, op := 0x3, err := .none, respStatus := st, respValid := true }.withNow
    { s.now with rst := false, sample := none, rspReady := true }

/-- A word placed where the next event takes its instruction from. -/
def placeWord (c : CodeWord) (s : State) : State :=
  match c with
  | .cw w => placeCommand w s
  | .request h => placeRequest h s
  | .status st => placeStatus st s

end Sys2Proof.Machine
end

