-- ==== Sys2Proof/Machine/Step.lean ====
section
/-!
DEFINITION. One step of the machine is one event on its ports (R16: the spec models no clock).
-/

namespace Sys2Proof.Machine

def step (s : State) : Host.Outcome State Fault Refusal := event s

/-- A table word placed where the next step takes its instruction from (assumption 4). -/
def State.withFetchWord (s : State) (nbits w : Nat) : State := placeWord (tableWord nbits w) s

end Sys2Proof.Machine
end

