-- ==== Sys2Proof/Safety.lean ====
section
/-!
DEFINITION. The terms the claims are stated in: the invariant of the machine, an event without reset and
without a caller's read, the transport's part of a transaction, and READ and WRITE as the sequential
functions of rules R86 and R93.
-/

namespace Sys2Proof.Machine

/-- An event at which rst is low and the caller reads no response field. -/
def Inputs.quiet (e : Inputs) : Bool := !e.rst && e.sample.isNone

/-- A header as one number, the formula of rule R76. -/
def headerNumber (addr : BitVec 2) (isAp isWrite : Bool) : Nat :=
  let ap := isAp.toNat
  let r := (!isWrite).toNat
  let a2 := addr.toNat % 2
  let a3 := addr.toNat / 2
  0x81 + ap * 2 + r * 4 + a2 * 8 + a3 * 16 + (ap + r + a2 + a3) % 2 * 32

/-- The number of set bits of an operand bus. -/
def setBits (v : Opnd) : Nat := (List.range Config.opndW).countP fun k => v.getLsbD k

/-- The rule a completed transaction's status follows (R86, R93): the acknowledge code, but INVALID for a
READ with ACK whose parity bit does not match. -/
def statusRule (hasData : Bool) (code : BitVec 3) (d : Data) (b : BitVec 1) : BitVec 4 :=
  if hasData && code == 0b001#3 && parity32 d != b then 0xF#4 else code.setWidth 4

/-- What holds between events, whatever the caller and the transport do. -/
structure Invariant (s : State) : Prop where
  /-- A request is outstanding only in a transaction state (R22, R83). -/
  taken : s.tpTaken = true → s.fsm.inTxn = true
  /-- A transaction runs under OP = TXN with RESP_VALID = 0 (R82). -/
  running : s.fsm.inTxn = true → s.op = 0x3#4 ∧ s.respValid = false
  /-- A READ sends a well-formed header with RnW = 1 (R66, R86). -/
  reading : s.fsm.inRead = true →
    s.isWr = false ∧ (headerFields s.hdr).wf = true ∧ (headerFields s.hdr).isWrite = false
  /-- A WRITE sends a well-formed header with RnW = 0 (R66, R93). -/
  writing : s.fsm.inWrite = true →
    s.isWr = true ∧ (headerFields s.hdr).wf = true ∧ (headerFields s.hdr).isWrite = true
  /-- The parity read happens only on ACK (R90). -/
  parityOnAck : s.fsm = .rPar → s.ackRaw = 0b001#3
  /-- A valid response is what its transaction read back (R86, R93, R98). -/
  response : s.respValid = true →
    s.respHasData = !s.isWr ∧ s.respStatus = statusRule s.respHasData s.ackRaw s.rdata s.pbit ∧
    (s.respHasData = true → s.respData = s.rdata)
  /-- A response without error answers a command of a non-PACK kind; a TXN's is valid (R20, R34). -/
  answering : s.fsm = .rsp → s.err = .none →
    s.op ∈ [0x1#4, 0x2#4, 0x3#4, 0x4#4, 0x5#4] ∧ (s.op = 0x3#4 → s.respValid = true)
  /-- An aborted transaction leaves RESP_VALID = 0 (R99). -/
  aborted : s.fsm = .rsp → s.err = .transportError → s.op = 0x3#4 ∧ s.respValid = false
  /-- Only the utilities raise INVALID_ARGUMENT (R121). -/
  badArgument : s.fsm = .rsp → s.err = .invalidArgument → s.op ∈ [0x4#4, 0x5#4, 0x6#4]
  /-- A PACK byte on offer lies within the output (R36, R117). -/
  packing : s.fsm = .pkOut →
    s.op = 0x6#4 ∧ s.err = .none ∧ s.pkIdx.toNat < s.pkLen.toNat ∧ s.pkLen.toNat ≤ 2 ^ (Config.opndW - 4)

/-- How a transaction ends (R98, R99). -/
inductive TxnEnd where
  | completed (status : BitVec 4) (data : Option Data)
  | aborted (code : TErr)
  deriving DecidableEq, Repr

/-- What a transaction does when the transport gives it a list of answers (R100): the events on the
transport port, its end, and the answers it did not use. -/
structure TxnRun where
  events : List TpEvent
  ending : TxnEnd
  unused : List TpAnswer
  deriving DecidableEq, Repr

/-- One transport request of a sequential function (R11): it goes on with the answer, or aborts on an
error (R99); without an answer it has no result (R23). -/
def ask (r : TpReq) (log : List TpEvent) (answers : List TpAnswer)
    (k : TpAnswer → List TpEvent → List TpAnswer → Option TxnRun) : Option TxnRun :=
  match answers with
  | [] => none
  | a :: rest =>
    if a.err then
      some { events := log ++ [.request r, .failed a.errCode], ending := .aborted a.errCode, unused := rest }
    else k a (log ++ [.request r, answerEvent r a]) rest

/-- A transaction that ends without error. -/
def finish (status : BitVec 4) (data : Option Data) (log : List TpEvent) (answers : List TpAnswer) :
    Option TxnRun :=
  some { events := log, ending := .completed status data, unused := answers }

/-- READ as one sequential function (R86), `h` being its header. -/
def seqRead (h : BitVec 8) (answers : List TpAnswer) : Option TxnRun :=
  ask (.write (h.setWidth 32) 8 .host) [] answers fun _ log answers =>
  ask (.write 0 3 .target) log answers fun ack log answers =>
  ask (.write 0 32 .target) log answers fun _ log answers =>
  ask (.write 0 8 .target) log answers fun _ log answers =>
  ask (.read ack.offset 8) log answers fun st log answers =>
  ask (.read (ack.offset + 3) 32) log answers fun d log answers =>
  let code := st.value.extractLsb' 0 3
  if code = 0b001#3 then
    ask (.read (ack.offset + 35) 1) log answers fun b log answers =>
    if parity32 d.value ≠ b.value.extractLsb' 0 1 then finish 0xF#4 (some d.value) log answers
    else finish 0x1#4 (some d.value) log answers
  else finish (code.setWidth 4) (some d.value) log answers

/-- WRITE as one sequential function (R93), `h` being its header and `d` its data. -/
def seqWrite (h : BitVec 8) (d : Data) (answers : List TpAnswer) : Option TxnRun :=
  ask (.write (h.setWidth 32) 8 .host) [] answers fun _ log answers =>
  ask (.write 0 3 .target) log answers fun ack log answers =>
  ask (.write 0 2 .turn) log answers fun _ log answers =>
  ask (.write d 32 .host) log answers fun _ log answers =>
  ask (.write ((parity32 d).setWidth 32) 1 .host) log answers fun _ log answers =>
  ask (.read ack.offset 8) log answers fun st log answers =>
  finish ((st.value.extractLsb' 0 3).setWidth 4) none log answers

/-- The events of one request: any wait until the transport takes it, any wait until it answers. -/
structure Exchange where
  waitReady : List Inputs
  take : Inputs
  waitAnswer : List Inputs
  reply : Inputs
  deriving DecidableEq, Repr

/-- The events of an exchange, in order. -/
def Exchange.events (x : Exchange) : List Inputs := x.waitReady ++ x.take :: (x.waitAnswer ++ [x.reply])

/-- The exchange delivers the answer `a`. -/
def Exchange.delivers (x : Exchange) (a : TpAnswer) : Bool :=
  x.waitReady.all (fun e => e.quiet && !e.tpReqReady) && x.take.quiet && x.take.tpReqReady &&
  x.waitAnswer.all (fun e => e.quiet && e.answer.isNone) && x.reply.quiet && x.reply.answer == some a

/-- All events of a list of exchanges. -/
def exchangeEvents (xs : List Exchange) : List Inputs := xs.flatMap Exchange.events

/-- The exchanges deliver the answers, one each, in order. -/
def delivered : List Exchange → List TpAnswer → Bool
  | [], [] => true
  | x :: xs, a :: as => x.delivers a && delivered xs as
  | _, _ => false

/-- The response beat a transaction ends with (R20, R98, R99). -/
def TxnEnd.beat : TxnEnd → RspBeat
  | .completed st d => { op := 0x3#4, err := .none, body := .txn st d }
  | .aborted c => { op := 0x3#4, err := .transportError, body := .error (some c) }

/-- The fields rule R20 defines in the beat offered in a state, by its op, error kind and direction. -/
def definedFields (op : BitVec 4) (err : ErrKind) (isWr : Bool) : List RspField :=
  match err with
  | .invalidArgument => [.op, .err]
  | .illegalCommand => [.op, .err]
  | .transportError => [.op, .err, .errCode]
  | .none =>
    [.op, .err] ++
    (if op = 0x1#4 then [.hdr]
    else if op = 0x2#4 then [.dec]
    else if op = 0x3#4 then
      [.status, .hasData, .isAck, .isWait, .isFault, .isInvalid] ++ (if isWr then [] else [.data])
    else if op = 0x4#4 then [.bit]
    else if op = 0x5#4 then [.size]
    else if op = 0x6#4 then [.byte, .idx, .last]
    else [])

/-- The value of a response field from its register: the `meaning` column of rule R19's table. -/
def fieldValue (s : State) : RspField → Opnd
  | .op => s.op.setWidth _
  | .err => match s.err with
    | .none => 0
    | .invalidArgument => 1
    | .transportError => 2
    | .illegalCommand => 3
  | .errCode => s.errCode.setWidth _
  | .status => s.respStatus.setWidth _
  | .data => s.respData.setWidth _
  | .hasData => if s.respHasData then 1 else 0
  | .isAck => if s.respStatus = 0x1#4 then 1 else 0
  | .isWait => if s.respStatus = 0x2#4 then 1 else 0
  | .isFault => if s.respStatus = 0x4#4 then 1 else 0
  | .isInvalid => if s.respStatus = 0xF#4 then 1 else 0
  | .hdr => s.resHdr.setWidth _
  | .dec => s.resDec.setWidth _
  | .bit => s.resBit.setWidth _
  | .size => s.resSize.setWidth _
  | .byte => BitVec.ofNat _ (s.pkVal.toNat / 2 ^ (8 * s.pkIdx.toNat) % 256)
  | .idx => s.pkIdx
  | .last => if s.pkIdx.toNat + 1 = s.pkLen.toNat then 1 else 0

/-- The present event is the command beat of a word that decodes to `i` (R18). -/
def CommandBeat (s : State) (i : Instr) : Prop :=
  s.fsm = .idle ∧ s.now.rst = false ∧ s.now.cmdValid = true ∧ decodeCW s.now.cmdWord = .ok i

/-- The FSM states one event can lead to without reset: the next-state columns of rules R85 and R92, the
command beats, and the response beats of rules R21 and R117. Staying is always possible. -/
def successors : Fsm → List Fsm
  | .idle => [.rHdr, .wHdr, .rsp, .pkOut]
  | .rHdr => [.rAck, .rsp]
  | .rAck => [.rWin, .rsp]
  | .rWin => [.rTrl, .rsp]
  | .rTrl => [.rStat, .rsp]
  | .rStat => [.rData, .rsp]
  | .rData => [.rPar, .rsp]
  | .rPar => [.rsp]
  | .wHdr => [.wAck, .rsp]
  | .wAck => [.wTrn, .rsp]
  | .wTrn => [.wData, .rsp]
  | .wData => [.wPar, .rsp]
  | .wPar => [.wStat, .rsp]
  | .wStat => [.rsp]
  | .rsp => [.idle]
  | .pkOut => [.idle]

/-- The operand buses a command uses (R17, R63): two events agree on those of `i`. -/
def sameOperands (i : Instr) (e e' : Inputs) : Prop :=
  match i with
  | .buildHeader _ _ _ => True
  | .decodeHeader => e.cmdHdr = e'.cmdHdr
  | .read _ _ => True
  | .write _ _ => e.cmdData = e'.cmdData
  | .parity => e.cmdVal = e'.cmdVal
  | .packSize => e.cmdVal = e'.cmdVal
  | .pack bitsGiven => e.cmdVal = e'.cmdVal ∧ (bitsGiven = true → e.cmdBits = e'.cmdBits)
  | .dpRead _ _ | .dpWrite _ _ | .apRead _ _ | .apWrite _ _ => e = e'
  | .isAck | .isWait | .isFault | .isInvalid => True

/-- The event with other command-port signals. -/
def Inputs.withCommand (e : Inputs) (valid : Bool) (word : BitVec 16) (data : Data) (hdr : BitVec 8)
    (val bits : Opnd) : Inputs :=
  { e with cmdValid := valid, cmdWord := word, cmdData := data, cmdHdr := hdr, cmdVal := val, cmdBits := bits }

/-- The beats of a PACK output (R117): byte i of the value, for i = 0 to L - 1, the last one marked. -/
def packBeats (v : Opnd) (len : Nat) : List RspBeat :=
  (List.range len).map fun i =>
    { op := 0x6#4, err := .none
      body := .byte (BitVec.ofNat 8 (v.toNat / 2 ^ (8 * i))) (BitVec.ofNat Config.opndW i) (i + 1 == len) }

/-- The least number of bytes, at least one, that hold n (R113). -/
def IsLeastBytes (n k : Nat) : Prop := 1 ≤ k ∧ n < 2 ^ (8 * k) ∧ ∀ j, 1 ≤ j → n < 2 ^ (8 * j) → k ≤ j

end Sys2Proof.Machine
end

