-- ==== Sys2Proof/Certificates/Slice0/Obligations.lean ====
section
/-!
DEFINITION. The statements for the provers, one `Prop` each, from the numbered rules of spec/.
-/

open Sys2Proof Sys2Proof.Machine

/-! ### Encodings -/

/-- Decoding the word of any instruction gives the instruction back, with every operand at every value. -/
def Obligations.DecodeInvertsEncode : Prop :=
  ∀ i : Instr, decode (encode i) = .ok i

/-- A word that decodes to an instruction is that instruction's word but for the bits its row ignores; a
header or a status has no ignored bit. -/
def Obligations.EncodeInvertsDecode : Prop :=
  (∀ w i, decode (.cw w) = .ok i → encode i = .cw (w &&& usedBits i)) ∧
  (∀ h i, decode (.request h) = .ok i → encode i = .request h) ∧
  (∀ s i, decode (.status s) = .ok i → encode i = .status s)

/-- The decoder and the opcode table agree: a word decodes to an instruction only if it has the fixed bits
of its row, and every word that has the fixed bits of some row decodes to an instruction of that row. -/
def Obligations.DecoderFollowsOpcodeTable : Prop :=
  (∀ c i, decode c = .ok i → (opcodeRow i).matchesWord c = true) ∧
  (∀ c i, (opcodeRow i).matchesWord c = true → ∃ j, decode c = .ok j ∧ opcodeRow j = opcodeRow i)

/-- The 240 bytes that are no request header are exactly those that decode to no well-formed request kind. That
the parity constraint is judged by well-formedness is the model's choice (assumption 7). -/
def Obligations.RequestKindsAreHeaders : Prop :=
  ∀ h : BitVec 8, (headerFields h).wf = true ↔ ∃ i, decodeRequest h = .ok i ∧ i.wellFormed = true

/-- Words written out from the spec's encodings decode to the instructions they stand for. -/
def Obligations.WrittenOutWordsDecode : Prop :=
  decode (.cw 0b0000000000000011#16) = .ok (.read 0 false) ∧
  decode (.cw 0b0000000011100011#16) = .ok (.read 3 true) ∧
  decode (.cw 0b0000000010110011#16) = .ok (.write 2 true) ∧
  decode (.cw 0b0000000010110001#16) = .ok (.buildHeader 2 true true) ∧
  decode (.cw 0b0000000000000010#16) = .ok .decodeHeader ∧
  decode (.cw 0b0000000100000110#16) = .ok (.pack true) ∧
  decode (.request 0b10100101#8) = .ok (.dpRead true 0) ∧
  decode (.request 0b10010011#8) = .ok (.apWrite false 2) ∧
  decode (.status 0b0100#4) = .ok .isFault ∧
  decode (.status 0b1111#4) = .ok .isInvalid

/-- Ignored fields and unused operand buses have no effect: two command words that agree on the bits an
instruction uses decode alike, and a command beat gives the same next state whatever the operand buses it
does not use hold. -/
def Obligations.UnusedFieldsIgnored : Prop :=
  (∀ w w' i, decodeCW w = .ok i → w' &&& usedBits i = w &&& usedBits i → decodeCW w' = .ok i) ∧
  (∀ w i, decodeCW w = .ok i → cwRsv w = 0#7) ∧
  (∀ i (s : State) e e' rest, s.fsm = .idle → sameOperands i e e' →
    andThen (exec i { s with inputs := e :: rest }) (fun t => .next t.consume) =
    andThen (exec i { s with inputs := e' :: rest }) (fun t => .next t.consume))

/-! ### The step -/

/-- A step runs the decoded instruction: at a quiet event whose word decodes to `i`, the step is `exec i`
(after the record of the line premise), then the response beat where the word was a status, and the event
is over. Which words an event runs is the model's choice (assumption 4). -/
def Obligations.StepRunsDecodedInstruction : Prop :=
  ∀ s c i, s.now.quiet = true → fetchWord s = some c → decode c = .ok i →
    step s = andThen (exec i (noteLine s)) fun t =>
      .next { (if s.fsm = .rsp then takeBeat t else t) with inputs := t.inputs.tail }

/-- Where an instruction's word comes from: a command word from the command beat, a request header from the
header register in the header phase, a status from RESP_STATUS in a taken response beat of a TXN. That
headers and statuses are words an event runs is the model's choice (assumption 4). -/
def Obligations.WordsComeFromThePorts : Prop :=
  (∀ s, s.fsm = .idle → s.now.cmdValid = true → fetchWord s = some (.cw s.now.cmdWord)) ∧
  (∀ s, s.fsm = .rHdr ∨ s.fsm = .wHdr → fetchWord s = some (.request s.hdr)) ∧
  (∀ s, s.txnOffered = true → s.now.rspReady = true → fetchWord s = some (.status s.respStatus)) ∧
  (∀ s c, fetchWord s = some c →
    s.fsm = .idle ∧ s.now.cmdValid = true ∨ s.fsm = .rHdr ∨ s.fsm = .wHdr ∨
      s.txnOffered = true ∧ s.now.rspReady = true)

/-- An illegal command word is answered ILLEGAL_COMMAND: OP and ERR are written, FSM offers one error beat,
no other register changes and no transport request is made. -/
def Obligations.IllegalCommandWord : Prop :=
  ∀ s : State, s.fsm = .idle → s.now.quiet = true → s.now.cmdValid = true →
    (s.now.cmdWord.extractLsb' 0 4 ∈ [0x0#4, 0x7#4, 0x8#4, 0x9#4, 0xA#4, 0xB#4, 0xC#4, 0xD#4, 0xE#4, 0xF#4] ∨
      s.now.cmdWord.extractLsb' 9 7 ≠ 0#7) →
    ∃ t, step s = .next t ∧
      t = { s with
        op := s.now.cmdWord.extractLsb' 0 4, err := .illegalCommand, fsm := .rsp
        inputs := s.inputs.tail, lineFramed := t.lineFramed } ∧
      rspPort t = some { op := s.now.cmdWord.extractLsb' 0 4, err := .illegalCommand, body := .error none } ∧
      t.tpReqPort = none

/-- A command is accepted only in IDLE: cmd_ready is 1 exactly there, and in every other state a step is the
same whatever the command port carries. -/
def Obligations.BusyBlockIgnoresCommandPort : Prop :=
  (∀ s : State, s.cmdReady = true ↔ s.fsm = .idle) ∧
  (∀ (s : State) e rest valid word data hdr val bits, s.fsm ≠ .idle →
    step { s with inputs := Inputs.withCommand e valid word data hdr val bits :: rest } =
    step { s with inputs := e :: rest })

/-- The machine stops only for the caller's read of a field without value, and at the command beat of a PACK
whose length exceeds MAX_PACK_BYTES. That the first is a fault that ends the run, and where the limit is
kept, are the model's choices (assumptions 15 and 6). -/
def Obligations.StopsOnlyWhereTheSpecSays : Prop :=
  (∀ s r, step s = .fault r →
    s.now.rst = false ∧ ∃ f, s.now.sample = some f ∧ portField s f = none ∧ r = .noValue f) ∧
  (∀ s r, step s = .refused r →
    r = .packTooLong ∧ ∃ bp len, CommandBeat s (.pack bp) ∧
      packLength (sintOpnd s.now.cmdVal) (bitsOperand bp s.now.cmdBits) = some len ∧
      exceeds s.maxPackBytes len = true)

/-! ### The header codec -/

/-- Round trip of the header codec, and the constant and parity bits of a built header. -/
def Obligations.HeaderRoundTrip : Prop :=
  ∀ addr isAp isWrite,
    headerFields (encodeHeader addr isAp isWrite) = { addr, isAp, isWrite, wf := true } ∧
    (encodeHeader addr isAp isWrite).getLsbD 0 = true ∧
    (encodeHeader addr isAp isWrite).getLsbD 6 = false ∧
    (encodeHeader addr isAp isWrite).getLsbD 7 = true ∧
    (encodeHeader addr isAp isWrite).getLsbD 5 =
      (isAp ^^ !isWrite ^^ addr.getLsbD 0 ^^ addr.getLsbD 1)

/-- The encoder is injective, its image is the sixteen values of the spec's table, and a byte is well formed
exactly when it is one of them, in which case encoding its fields gives the byte back. -/
def Obligations.HeaderImage : Prop :=
  (∀ a p w a' p' w', encodeHeader a p w = encodeHeader a' p' w' → a = a' ∧ p = p' ∧ w = w') ∧
  (∀ h : BitVec 8, (headerFields h).wf = true ↔
    h ∈ [0xA5#8, 0x8D#8, 0x95#8, 0xBD#8, 0x81#8, 0xA9#8, 0xB1#8, 0x99#8,
         0x87#8, 0xAF#8, 0xB7#8, 0x9F#8, 0xA3#8, 0x8B#8, 0x93#8, 0xBB#8]) ∧
  (∀ h : BitVec 8, (headerFields h).wf = true ↔ ∃ a p w, encodeHeader a p w = h) ∧
  (∀ h : BitVec 8, (headerFields h).wf = true →
    encodeHeader (headerFields h).addr (headerFields h).isAp (headerFields h).isWrite = h)

/-- BUILD_HEADER completes in IDLE for all sixteen operand combinations: RES_HDR is the header the formula of
rule R76 gives, the beat carries it, and nothing else but OP, ERR and FSM changes. -/
def Obligations.BuildHeaderCompletes : Prop :=
  ∀ (s : State) addr isAp isWrite, s.fsm = .idle →
    ∃ t, exec (.buildHeader addr isAp isWrite) s = .next t ∧
      t = { s with
        op := 0x1, resHdr := BitVec.ofNat 8 (headerNumber addr isAp isWrite), err := .none, fsm := .rsp } ∧
      rspPort t = some
        { op := 0x1, err := .none, body := .header (BitVec.ofNat 8 (headerNumber addr isAp isWrite)) }

/-- DECODE_HEADER completes in IDLE for every byte: RES_DEC holds WF, the complement of bit 2, bit 1 and
bits 4 and 3 of cmd_hdr, and nothing else but OP, ERR and FSM changes. -/
def Obligations.DecodeHeaderCompletes : Prop :=
  ∀ s : State, s.fsm = .idle →
    ∃ t, exec .decodeHeader s = .next t ∧
      t = { s with op := 0x2, resDec := t.resDec, err := .none, fsm := .rsp } ∧
      rspPort t = some { op := 0x2, err := .none, body := .decoded t.resDec } ∧
      t.resDec.extractLsb' 0 2 = s.now.cmdHdr.extractLsb' 3 2 ∧
      t.resDec.getLsbD 2 = s.now.cmdHdr.getLsbD 1 ∧
      t.resDec.getLsbD 3 = !s.now.cmdHdr.getLsbD 2 ∧
      (t.resDec.getLsbD 4 = true ↔ ∃ a p w, s.now.cmdHdr = BitVec.ofNat 8 (headerNumber a p w))

/-! ### Transactions -/

/-- The command beat of a TXN: READ and WRITE in IDLE start their transaction with its header (and a WRITE
its data) and RESP_VALID cleared, and no step but a reset changes OP, IS_WR, HDR or WDATA until the next
command beat. That no request is taken at the start is the implied bit of assumption 9. -/
def Obligations.TransactionStarts : Prop :=
  (∀ (s : State) addr isAp, s.fsm = .idle →
    exec (.read addr isAp) s = .next { s with
      op := 0x3, isWr := false, hdr := BitVec.ofNat 8 (headerNumber addr isAp false)
      respValid := false, tpTaken := false, fsm := .rHdr }) ∧
  (∀ (s : State) addr isAp, s.fsm = .idle →
    exec (.write addr isAp) s = .next { s with
      op := 0x3, isWr := true, hdr := BitVec.ofNat 8 (headerNumber addr isAp true), wdata := s.now.cmdData
      respValid := false, tpTaken := false, fsm := .wHdr }) ∧
  (∀ s t, ¬(s.fsm = .idle ∧ s.now.cmdValid = true) → s.now.rst = false → step s = .next t →
    t.op = s.op ∧ t.isWr = s.isWr ∧ t.hdr = s.hdr ∧ t.wdata = s.wdata)

/-- The four request kinds in the header phase: the header's eight bits are offered with direction HOST, are
taken when the transport is ready, and the acknowledge state follows an answer without error; an answer
with an error aborts. Nothing else changes. That a request kind's meaning is the header phase is the model's
choice (assumption 4), and so is that taking and answering are two events (assumption 9). -/
def Obligations.RequestHeaderIsSent : Prop :=
  ∀ (s : State) p addr i h, s.fsm = .rHdr ∨ s.fsm = .wHdr →
    (i, h) ∈ [(Instr.dpRead p addr, (0x85 : Nat)), (.dpWrite p addr, 0x81), (.apRead p addr, 0x87),
      (.apWrite p addr, 0x83)] →
    let r := TpReq.write (BitVec.ofNat 32 (h + 8 * addr.toNat + 32 * p.toNat)) 8 .host
    (s.tpTaken = false → s.now.tpReqReady = true →
      exec i s = .next { s with tpTaken := true, tpLog := s.tpLog ++ [.request r] }) ∧
    (s.tpTaken = false → s.now.tpReqReady = false → exec i s = .next s) ∧
    (∀ a, s.tpTaken = true → s.now.answer = some a → a.err = false →
      exec i s = .next { s with
        tpTaken := false, tpLog := s.tpLog ++ [.wrote a.offset]
        fsm := if s.fsm = .rHdr then .rAck else .wAck }) ∧
    (∀ a, s.tpTaken = true → s.now.answer = some a → a.err = true →
      exec i s = .next { s with
        tpTaken := false, tpLog := s.tpLog ++ [.failed a.errCode]
        err := .transportError, errCode := a.errCode, fsm := .rsp, lineFramed := false }) ∧
    (s.tpTaken = true → s.now.answer = none → exec i s = .next s)

/-- READ refines its sequential function: from IDLE, a READ command beat and then any exchanges that deliver
answers the sequential READ of rule R86 uses up take the machine to the response of that function, with
exactly its transport events, whatever waits lie between. PBIT changes only with a parity read, that is when
the status is ACK or INVALID. That the transport takes a request and answers it in two events is the model's
choice (assumption 9). -/
def Obligations.ReadRunsSequentially : Prop :=
  ∀ (s : State) e addr isAp xs answers rest run,
    s.fsm = .idle → s.inputs = e :: (exchangeEvents xs ++ rest) →
    e.quiet = true → e.cmdValid = true → decodeCW e.cmdWord = .ok (.read addr isAp) →
    delivered xs answers = true →
    seqRead (encodeHeader addr isAp false) answers = some run → run.unused = [] →
    ∃ t, Host.Core.run core (1 + (exchangeEvents xs).length) s = .next t ∧
      t.fsm = .rsp ∧ t.inputs = rest ∧ t.tpLog = s.tpLog ++ run.events ∧ t.tpTaken = false ∧
      rspPort t = some run.ending.beat ∧
      t.rspLog = s.rspLog ∧ t.resHdr = s.resHdr ∧ t.resDec = s.resDec ∧ t.resBit = s.resBit ∧
      t.resSize = s.resSize ∧ t.pkVal = s.pkVal ∧ t.pkLen = s.pkLen ∧ t.pkIdx = s.pkIdx ∧ t.wdata = s.wdata ∧
      t.samples = s.samples ∧ t.freeCount = s.freeCount ∧ t.maxPackBytes = s.maxPackBytes ∧
      (∀ st d, run.ending = .completed st d → t.errCode = s.errCode ∧ d = some t.rdata) ∧
      ((∃ d, run.ending = .completed 0x1#4 d ∨ run.ending = .completed 0xF#4 d) ∨ t.pbit = s.pbit)

/-- WRITE refines its sequential function in the same way; its data is what cmd_data held at the command
beat. That the transport takes a request and answers it in two events is the model's choice (assumption 9). -/
def Obligations.WriteRunsSequentially : Prop :=
  ∀ (s : State) e addr isAp xs answers rest run,
    s.fsm = .idle → s.inputs = e :: (exchangeEvents xs ++ rest) →
    e.quiet = true → e.cmdValid = true → decodeCW e.cmdWord = .ok (.write addr isAp) →
    delivered xs answers = true →
    seqWrite (encodeHeader addr isAp true) e.cmdData answers = some run → run.unused = [] →
    ∃ t, Host.Core.run core (1 + (exchangeEvents xs).length) s = .next t ∧
      t.fsm = .rsp ∧ t.inputs = rest ∧ t.tpLog = s.tpLog ++ run.events ∧ t.tpTaken = false ∧
      rspPort t = some run.ending.beat ∧
      t.rspLog = s.rspLog ∧ t.resHdr = s.resHdr ∧ t.resDec = s.resDec ∧ t.resBit = s.resBit ∧
      t.resSize = s.resSize ∧ t.pkVal = s.pkVal ∧ t.pkLen = s.pkLen ∧ t.pkIdx = s.pkIdx ∧
      t.rdata = s.rdata ∧ t.pbit = s.pbit ∧ t.wdata = e.cmdData ∧
      t.samples = s.samples ∧ t.maxPackBytes = s.maxPackBytes ∧
      (∀ st d, run.ending = .completed st d → t.errCode = s.errCode)

/-- A failed transport request aborts the transaction at once, in every transaction state: ERR and ERR_CODE
are written, RESP_VALID stays 0, the error beat is offered with the transport's code, no request is offered
any more, the line is no longer known to be framed, no result is written, and the response beat leads to
IDLE. -/
def Obligations.TransportErrorAborts : Prop :=
  ∀ s a, Invariant s → s.fsm.inTxn = true → s.tpTaken = true → s.now.quiet = true → s.now.answer = some a →
    a.err = true →
    ∃ t, step s = .next t ∧
      t = { s with
        err := .transportError, errCode := a.errCode, fsm := .rsp, tpTaken := false
        tpLog := s.tpLog ++ [.failed a.errCode], lineFramed := false, inputs := s.inputs.tail } ∧
      t.respValid = false ∧ t.tpReqPort = none ∧
      rspPort t = some { op := 0x3#4, err := .transportError, body := .error (some a.errCode) } ∧
      (t.now.quiet = true → t.now.rspReady = true → ∃ u, step t = .next u ∧ u.fsm = .idle ∧
        u.respValid = false ∧ u.err = .transportError ∧ u.tpLog = t.tpLog)

/-- SWDC waits without end: with a request offered and not taken, or taken and not answered, a quiet event
changes nothing but the passing of the event itself. -/
def Obligations.WaitingChangesNothing : Prop :=
  ∀ s, s.fsm.inTxn = true → s.now.quiet = true →
    (s.tpTaken = false ∧ s.now.tpReqReady = false ∨ s.tpTaken = true ∧ s.now.answer = none) →
    ∃ t, step s = .next t ∧ t = { s with inputs := s.inputs.tail, lineFramed := t.lineFramed }

/-- A transport that returns stray higher bits cannot change any result: for the READ request now
outstanding, two values that agree on its low bits give the same step. -/
def Obligations.StrayReadBitsIgnored : Prop :=
  ∀ (s : State) (e : Inputs) rest o n (v v' : BitVec 32), stateRequest s = some (.read o n) →
    v.setWidth n.toNat = v'.setWidth n.toNat →
    step { s with inputs := { e with tpRspValue := v } :: rest } =
    step { s with inputs := { e with tpRspValue := v' } :: rest }

/-- A transport response that answers a request outstanding at a reset is ignored: the step is the one
without it. The mark that tells such a response is the model's choice (assumption 12). -/
def Obligations.LateAnswerIgnored : Prop :=
  ∀ (s : State) (e : Inputs) rest,
    step { s with inputs := { e with tpRspValid := true, tpRspLate := true } :: rest } =
    step { s with inputs := { e with tpRspValid := false, tpRspLate := true } :: rest }

/-- Transport events happen only in transaction states, at most one a step, and the log only grows. -/
def Obligations.OnlyTransactionsUseTheTransport : Prop :=
  ∀ s t, step s = .next t →
    t.tpLog = s.tpLog ∨ s.fsm.inTxn = true ∧ s.now.rst = false ∧ ∃ e, t.tpLog = s.tpLog ++ [e]

/-- FSM moves only along the transition tables, and to IDLE by reset. -/
def Obligations.FsmFollowsItsTables : Prop :=
  ∀ s t, step s = .next t →
    if s.now.rst = true then t.fsm = .idle else t.fsm = s.fsm ∨ t.fsm ∈ successors s.fsm

/-- INVALID is produced nowhere but at the parity read of a READ whose parity bit mismatches, and the data is
kept. -/
def Obligations.InvalidOnlyFromParityMismatch : Prop :=
  ∀ s t, step s = .next t → t.respValid = true → t.respStatus = 0xF#4 →
    (s.respValid = true ∧ s.respStatus = 0xF#4) ∨
    (s.fsm = .rPar ∧ s.tpTaken = true ∧ t.pbit ≠ parity32 s.rdata ∧ t.respHasData = true ∧ t.respData = s.rdata)

/-! ### Responses -/

/-- The response registers change only by a transaction or a reset: at the TXN command beat RESP_VALID is
cleared, and only the last step of a READ or WRITE sets it. -/
def Obligations.ResponseLifetime : Prop :=
  ∀ s t, step s = .next t → s.now.rst = false →
    (t.respStatus = s.respStatus ∧ t.respData = s.respData ∧ t.respHasData = s.respHasData ∧
      (t.respValid = s.respValid ∨
        s.fsm = .idle ∧ (t.fsm = .rHdr ∨ t.fsm = .wHdr) ∧ t.respValid = false)) ∨
    (s.fsm ∈ [.rData, .rPar, .wStat] ∧ t.fsm = .rsp ∧ t.respValid = true ∧ t.err = .none)

/-- The four predicates, each an equality test on RESP_STATUS: read in the response beat of a transaction
that completed without error each gives its value and changes no register; anywhere else, and whenever
RESP_VALID = 0, it faults with NoValue. That a read is recorded in `samples` is the model's choice
(assumption 13). -/
def Obligations.PredicatesTestStatus : Prop :=
  ∀ (s : State) i f c,
    (i, f, c) ∈ [(Instr.isAck, RspField.isAck, 0x1#4), (.isWait, .isWait, 0x2#4), (.isFault, .isFault, 0x4#4),
      (.isInvalid, .isInvalid, 0xF#4)] →
    (s.rspValid = true → s.op = 0x3#4 → s.err = .none → s.respValid = true →
      exec i s = .next { s with samples := s.samples ++ [(f, if s.respStatus = c then 1 else 0)] }) ∧
    (¬(s.rspValid = true ∧ s.op = 0x3#4 ∧ s.err = .none ∧ s.respValid = true) → exec i s = .fault (.noValue f))

/-- The predicates are mutually exclusive, one of them holds for each named status, and none for the five
unnamed acknowledge codes or the values never produced. -/
def Obligations.PredicatesExclusive : Prop :=
  ∀ st : BitVec 4,
    (if st = 0x1#4 then [true, false, false, false]
     else if st = 0x2#4 then [false, true, false, false]
     else if st = 0x4#4 then [false, false, true, false]
     else if st = 0xF#4 then [false, false, false, true]
     else [false, false, false, false]) = [isAck st, isWait st, isFault st, isInvalid st]

/-- Which response fields have a value: in a state of a run, a caller's read gives one exactly for the fields
of rule R20's table, and faults with NoValue for every other field and whenever no beat is offered;
rsp_has_data is 1 for a READ and 0 for a WRITE. -/
def Obligations.DefinedFieldsOfABeat : Prop :=
  ∀ s f, Invariant s → s.now.rst = false → s.now.sample = some f →
    ((s.fsm = .rsp ∨ s.fsm = .pkOut) ∧ f ∈ definedFields s.op s.err s.isWr ↔ portField s f ≠ none) ∧
    (portField s f = none → step s = .fault (.noValue f)) ∧
    (∀ v t, portField s f = some v → step s = .next t → (f, v) ∈ t.samples) ∧
    (s.fsm = .rsp → s.op = 0x3#4 → s.err = .none → portField s .hasData = some (if s.isWr then 0 else 1))

/-- SWDC never drops a response: in RSP and in PK_OUT a quiet event without rsp_ready changes nothing and the
same beat stays on offer. With rsp_ready the offered beat is recorded; RSP and the last byte of a PACK return
to IDLE, any other byte of a PACK advances PK_IDX, and every other register keeps its value. -/
def Obligations.ResponseBeatIsHeld : Prop :=
  ∀ s, s.fsm = .rsp ∨ s.fsm = .pkOut → s.now.quiet = true →
    ∃ t, step s = .next t ∧
      (s.now.rspReady = false →
        t = { s with inputs := s.inputs.tail, lineFramed := t.lineFramed } ∧ rspPort t = rspPort s) ∧
      (s.now.rspReady = true →
        (∃ b, rspPort s = some b ∧ t.rspLog = s.rspLog ++ [b]) ∧
        (s.fsm = .rsp → t = { s with
          fsm := .idle, rspLog := t.rspLog, samples := t.samples
          inputs := s.inputs.tail, lineFramed := t.lineFramed }) ∧
        (s.fsm = .pkOut → s.pkIdx = s.pkLen - 1 → t = { s with
          fsm := .idle, rspLog := t.rspLog, inputs := s.inputs.tail, lineFramed := t.lineFramed }) ∧
        (s.fsm = .pkOut → s.pkIdx ≠ s.pkLen - 1 → t = { s with
          pkIdx := s.pkIdx + 1, rspLog := t.rspLog, inputs := s.inputs.tail, lineFramed := t.lineFramed }))

/-- ERR_CODE is written only when ERR becomes TRANSPORT_ERROR, at a failing answer in a transaction state,
and then with its code. Each result register of a utility is written only at the command beat of its own
command, and only when that ends without error; PK_VAL and PK_LEN only at the command beat of a PACK, PK_IDX
there or when a byte is taken. -/
def Obligations.ResultRegistersKept : Prop :=
  ∀ s t, step s = .next t → s.now.rst = false →
    (t.errCode = s.errCode ∨ s.fsm.inTxn = true ∧ s.tpTaken = true ∧ t.fsm = .rsp ∧ t.err = .transportError ∧
      ∃ a, s.now.answer = some a ∧ a.err = true ∧ t.errCode = a.errCode) ∧
    (t.resHdr = s.resHdr ∨ t.err = .none ∧ ∃ a p w, CommandBeat s (.buildHeader a p w)) ∧
    (t.resDec = s.resDec ∨ t.err = .none ∧ CommandBeat s .decodeHeader) ∧
    (t.resBit = s.resBit ∨ t.err = .none ∧ CommandBeat s .parity) ∧
    (t.resSize = s.resSize ∨ t.err = .none ∧ CommandBeat s .packSize) ∧
    (t.pkVal = s.pkVal ∧ t.pkLen = s.pkLen ∨ t.err = .none ∧ ∃ bp, CommandBeat s (.pack bp)) ∧
    (t.pkIdx = s.pkIdx ∨ t.err = .none ∧ (∃ bp, CommandBeat s (.pack bp)) ∨
      s.fsm = .pkOut ∧ s.now.rspReady = true ∧ t.pkIdx = s.pkIdx + 1)

/-! ### Utilities -/

/-- PARITY completes in IDLE for a value that is not negative: RES_BIT is 1 exactly when the number of set
bits of cmd_val is odd; a negative value is INVALID_ARGUMENT and leaves RES_BIT as it was. -/
def Obligations.ParityCompletes : Prop :=
  ∀ s : State, s.fsm = .idle →
    (s.now.cmdVal.msb = false →
      ∃ t, exec .parity s = .next t ∧
        t = { s with op := 0x4, resBit := BitVec.ofNat 1 (setBits s.now.cmdVal % 2), err := .none, fsm := .rsp } ∧
        rspPort t = some { op := 0x4, err := .none, body := .bit (BitVec.ofNat 1 (setBits s.now.cmdVal % 2)) }) ∧
    (s.now.cmdVal.msb = true →
      exec .parity s = .next { s with op := 0x4, err := .invalidArgument, fsm := .rsp })

/-- The parity the transactions use is the exclusive or of the 32 bits, and equals the parity function of
rule R110 on the word. -/
def Obligations.TransactionParityIsParity : Prop :=
  ∀ x : Data, parity (x.toNat : Int) = some (parity32 x) ∧
    parity32 x = BitVec.ofNat 1 ((List.range 32).countP (fun k => x.getLsbD k) % 2)

/-- PACK_SIZE completes in IDLE for a value that is not negative: RES_SIZE is the least number of bytes, at
least one, that hold it; a negative value is INVALID_ARGUMENT and leaves RES_SIZE as it was. -/
def Obligations.PackSizeCompletes : Prop :=
  ∀ s : State, s.fsm = .idle →
    (s.now.cmdVal.msb = false →
      ∃ t k, exec .packSize s = .next t ∧ IsLeastBytes s.now.cmdVal.toNat k ∧ k ≤ 8 ∧
        t = { s with op := 0x5, resSize := BitVec.ofNat 8 k, err := .none, fsm := .rsp } ∧
        rspPort t = some { op := 0x5, err := .none, body := .size (BitVec.ofNat 8 k) }) ∧
    (s.now.cmdVal.msb = true →
      exec .packSize s = .next { s with op := 0x5, err := .invalidArgument, fsm := .rsp })

/-- PACK's command beat: the length is the least byte count of the value without BITS, and BITS / 8 rounded
up with it; a negative value, or BITS that is not positive, is INVALID_ARGUMENT and leaves the PACK
registers as they were; a length above MAX_PACK_BYTES is refused (the limit's place is the model's choice,
assumption 6). -/
def Obligations.PackStarts : Prop :=
  ∀ (s : State) bp, s.fsm = .idle →
    (s.now.cmdVal.msb = true ∨ bp = true ∧ s.now.cmdBits.toInt ≤ 0 →
      exec (.pack bp) s = .next { s with op := 0x6, err := .invalidArgument, fsm := .rsp }) ∧
    (∀ len : Nat, s.now.cmdVal.msb = false →
      (bp = true → 0 < s.now.cmdBits.toInt ∧ (8 * len : Int) - 8 < s.now.cmdBits.toInt ∧
        s.now.cmdBits.toInt ≤ 8 * len) →
      (bp = false → IsLeastBytes s.now.cmdVal.toNat len) →
      (exceeds s.maxPackBytes len = true → exec (.pack bp) s = .refused .packTooLong) ∧
      (exceeds s.maxPackBytes len = false → exec (.pack bp) s = .next { s with
        op := 0x6, pkVal := s.now.cmdVal, pkLen := BitVec.ofNat 64 len, pkIdx := 0
        err := .none, fsm := .pkOut }))

/-- A PACK streams its bytes: from PK_OUT at index 0 of a length L, any quiet events at the last of which the
caller takes its L-th beat, waits between the beats included, deliver bytes 0 to L - 1 of the value in that
order, little-endian, each with its index and the last one marked, and return to IDLE. -/
def Obligations.PackStreamsLittleEndianBytes : Prop :=
  ∀ (s : State) es e rest, s.fsm = .pkOut → s.op = 0x6#4 → s.err = .none → s.pkIdx = 0 →
    s.inputs = es ++ e :: rest →
    (∀ x ∈ es, x.quiet = true) → e.quiet = true → e.rspReady = true →
    es.countP (fun x => x.rspReady) + 1 = s.pkLen.toNat →
    ∃ t, Host.Core.run core (es.length + 1) s = .next t ∧ t.fsm = .idle ∧ t.inputs = rest ∧
      t.rspLog = s.rspLog ++ packBeats s.pkVal s.pkLen.toNat ∧
      t.pkVal = s.pkVal ∧ t.pkLen = s.pkLen ∧ t.pkIdx = s.pkLen - 1 ∧ t.tpLog = s.tpLog ∧
      t.respValid = s.respValid ∧ t.err = .none

/-- INVALID_ARGUMENT has exactly its causes: a command in IDLE ends with it only for a negative VAL of a
utility or a non-positive BITS of a PACK, and it then writes nothing but OP, ERR and FSM. -/
def Obligations.InvalidArgumentCauses : Prop :=
  ∀ i (s t : State), s.fsm = .idle → exec i s = .next t →
    ((t.fsm = .rsp ∧ t.err = .invalidArgument) ↔
      (i = .parity ∨ i = .packSize ∨ ∃ bp, i = .pack bp) ∧
        (s.now.cmdVal.toInt < 0 ∨ i = .pack true ∧ s.now.cmdBits.toInt ≤ 0)) ∧
    (t.fsm = .rsp ∧ t.err = .invalidArgument →
      t = { s with op := t.op, err := .invalidArgument, fsm := .rsp } ∧
      rspPort t = some { op := t.op, err := .invalidArgument, body := .error none })

/-! ### Reset and whole-machine rules -/

/-- Reset, in any state: FSM = IDLE, RESP_VALID = 0, ERR = NONE, cmd_ready = 1, no response and no transport
request offered, no transport request issued and no response delivered. -/
def Obligations.ResetFromAnyState : Prop :=
  (∀ s : State, s.now.rst = true →
    ∃ t, step s = .next t ∧ t.fsm = .idle ∧ t.respValid = false ∧ t.err = .none ∧
      t.cmdReady = true ∧ t.rspValid = false ∧ rspPort t = none ∧ t.tpReqPort = none ∧
      t.tpLog = s.tpLog ∧ t.rspLog = s.rspLog) ∧
  (State.reset.fsm = .idle ∧ State.reset.respValid = false ∧ State.reset.err = .none ∧
    State.reset.cmdReady = true ∧ State.reset.rspValid = false ∧ State.reset.tpReqPort = none)

/-- The premise that the line is framed is gained only by the caller's line reset outside a transaction, and
lost by an abort, by a reset in a transaction state, and by another user during a transaction. Where the
premise is kept is the model's choice (assumption 5). -/
def Obligations.FramingPremise : Prop :=
  ∀ s t, step s = .next t →
    (t.lineFramed = true → s.lineFramed = true ∨ s.now.lineReset = true ∧ s.usesTransport = false) ∧
    (s.now.rst = true → s.fsm.inTxn = true → t.lineFramed = false) ∧
    (s.usesTransport = true → s.now.foreignUse = true ∨ s.now.lineReset = true → t.lineFramed = false) ∧
    (s.fsm.inTxn = true → s.now.rst = false → t.err = .transportError → t.fsm = .rsp → t.lineFramed = false)

/-- Every step keeps the machine's invariant. -/
def Obligations.StepKeepsInvariant : Prop :=
  ∀ s t, Invariant s → step s = .next t → Invariant t

/-- The machine's invariant holds right after reset. -/
def Obligations.InvariantAtReset : Prop := Invariant State.reset

/-- Every step leaves a legal status whenever RESP_VALID = 1: an acknowledge code with bit 3 clear, or
INVALID, the latter never after a WRITE; and RESP_HAS_DATA tells a READ from a WRITE. -/
def Obligations.StatusIsLegal : Prop :=
  ∀ s t, Invariant s → step s = .next t → t.respValid = true →
    (t.respStatus.toNat ≤ 7 ∨ t.respStatus = 0xF#4 ∧ t.isWr = false) ∧
    (t.respHasData = !t.isWr)

/-- One response beat a step at most, and only when the caller is ready for it. -/
def Obligations.BeatsOnlyWhenTaken : Prop :=
  ∀ s t, step s = .next t →
    t.rspLog = s.rspLog ∨
    (s.rspValid = true ∧ s.now.rspReady = true ∧ s.now.rst = false ∧
      ∃ b, rspPort s = some b ∧ t.rspLog = s.rspLog ++ [b])

/-- A caller's read of a defined response field gives the value of its register: rsp_op, rsp_err by its
numeric code, rsp_err_code, the response registers and the predicates of RESP_STATUS, the utility results,
and the byte, index and last mark of a PACK. -/
def Obligations.ResponseFieldValues : Prop :=
  ∀ s f, Invariant s → s.fsm = .rsp ∨ s.fsm = .pkOut → f ∈ definedFields s.op s.err s.isWr →
    portField s f = some (fieldValue s f)

/-- In IDLE the block waits for a command: a quiet event without cmd_valid changes no register and no log. -/
def Obligations.IdleWaitsForACommand : Prop :=
  ∀ s : State, s.fsm = .idle → s.now.quiet = true → s.now.cmdValid = false →
    ∃ t, step s = .next t ∧ t = { s with inputs := s.inputs.tail, lineFramed := t.lineFramed }

/-- The signals of the transport request port: tp_req_valid is 1 exactly in a transaction state whose request
is not taken yet, and each state's request has the kind code, value, count, offset and direction hint of the
tables of rules R85, R92 and R84. That a taken request leaves the port is the implied bit of assumption 9. -/
def Obligations.TransportRequestSignals : Prop :=
  ∀ s : State,
    s.tpReqValid = (s.fsm.inTxn && !s.tpTaken) ∧
    (∀ r, s.tpReqPort = some r →
      1 ≤ r.count.toNat ∧ r.count.toNat ≤ 32 ∧ r.dir ≠ some 3 ∧
      (s.fsm, tpKindBits r, r.value, r.count, r.offset, r.dir) ∈
        [(Fsm.rHdr, 0#1, some (s.hdr.setWidth 32), 8#6, none, some 0#2),
         (.rAck, 0, some 0, 3, none, some 1),
         (.rWin, 0, some 0, 32, none, some 1),
         (.rTrl, 0, some 0, 8, none, some 1),
         (.rStat, 1, none, 8, some s.ackOff, none),
         (.rData, 1, none, 32, some (s.ackOff + 3), none),
         (.rPar, 1, none, 1, some (s.ackOff + 35), none),
         (.wHdr, 0, some (s.hdr.setWidth 32), 8, none, some 0),
         (.wAck, 0, some 0, 3, none, some 1),
         (.wTrn, 0, some 0, 2, none, some 2),
         (.wData, 0, some s.wdata, 32, none, some 0),
         (.wPar, 0, some ((parity32 s.wdata).setWidth 32), 1, none, some 0),
         (.wStat, 1, none, 8, some s.ackOff, none)])
end

