-- ==== Sys2Proof/Laws/Codec.lean ====
section
/-!
SUPPORT. The decoder, the encoder and the header codec.
-/

namespace Sys2Proof.Machine

/-- The fixed bits of a request kind leave its parity bit and its register index. -/
theorem requestByte_of_fixed : ∀ h : BitVec 8,
    (h &&& 0xC7#8 = 0x85#8 → requestByte (h.getLsbD 5) (h.extractLsb' 3 2) true false = h) ∧
    (h &&& 0xC7#8 = 0x81#8 → requestByte (h.getLsbD 5) (h.extractLsb' 3 2) false false = h) ∧
    (h &&& 0xC7#8 = 0x87#8 → requestByte (h.getLsbD 5) (h.extractLsb' 3 2) true true = h) ∧
    (h &&& 0xC7#8 = 0x83#8 → requestByte (h.getLsbD 5) (h.extractLsb' 3 2) false true = h) := by
  decide +kernel

/-- What a header byte decodes to sends that byte again. -/
theorem exec_of_decodeRequest {h : BitVec 8} {i : Instr} (hd : decodeRequest h = .ok i) (s : State) :
    exec i s = .next (headerBeat h s) := by
  obtain ⟨h1, h2, h3, h4⟩ := requestByte_of_fixed h
  unfold decodeRequest at hd
  simp only at hd
  split at hd
  · next c => cases hd; simp only [exec, execDpRead, h1 c]
  · split at hd
    · next c => cases hd; simp only [exec, execDpWrite, h2 c]
    · split at hd
      · next c => cases hd; simp only [exec, execApRead, h3 c]
      · split at hd
        · next c => cases hd; simp only [exec, execApWrite, h4 c]
        · cases hd

/-- In the header phase the header beat is the transaction state's beat. -/
theorem headerBeat_eq {s : State} (h : s.fsm = .rHdr ∨ s.fsm = .wHdr) : headerBeat s.hdr s = transactionBeat s := by
  rcases h with h | h <;> simp [headerBeat, transactionBeat, stateRequest, h]

/-- The header a transaction sends is well formed and says its direction. -/
theorem headerFields_encodeHeader (a : BitVec 2) (p w : Bool) :
    headerFields (encodeHeader a p w) = { addr := a, isAp := p, isWrite := w, wf := true } := by
  revert a p w; decide

/-- A command word that decodes is a command. -/
theorem decodeCW_cases {w : BitVec 16} {i : Instr} (h : decodeCW w = .ok i) :
    cwRsv w = 0#7 ∧
    ((∃ a p d, i = .buildHeader a p d) ∨ i = .decodeHeader ∨ (∃ a p, i = .read a p) ∨ (∃ a p, i = .write a p) ∨
      i = .parity ∨ i = .packSize ∨ ∃ b, i = .pack b) := by
  unfold decodeCW at h
  split at h
  · cases h
  · next hr =>
    refine ⟨by simpa using hr, ?_⟩
    split at h
    · cases h; simp
    · split at h
      · cases h; simp
      · split at h
        · split at h <;> cases h <;> simp
        · split at h
          · cases h; simp
          · split at h
            · cases h; simp
            · split at h
              · cases h; simp
              · cases h

/-- A status that decodes names one of the four predicates. -/
theorem decodeStatus_cases {st : BitVec 4} {i : Instr} (h : decodeStatus st = .ok i) :
    i = .isAck ∨ i = .isWait ∨ i = .isFault ∨ i = .isInvalid := by
  unfold decodeStatus at h
  split at h
  · cases h; simp
  · split at h
    · cases h; simp
    · split at h
      · cases h; simp
      · split at h
        · cases h; simp
        · cases h

end Sys2Proof.Machine
end

