-- ==== Sys2Proof/Laws/State.lean ====
section
/-!
SUPPORT. One lemma per field per update of the state, so that no proof unfolds a record update.
-/

namespace Sys2Proof.Machine

@[simp] theorem consume_fsm (s : State) : s.consume.fsm = s.fsm := rfl
@[simp] theorem consume_op (s : State) : s.consume.op = s.op := rfl
@[simp] theorem consume_isWr (s : State) : s.consume.isWr = s.isWr := rfl
@[simp] theorem consume_hdr (s : State) : s.consume.hdr = s.hdr := rfl
@[simp] theorem consume_wdata (s : State) : s.consume.wdata = s.wdata := rfl
@[simp] theorem consume_ackOff (s : State) : s.consume.ackOff = s.ackOff := rfl
@[simp] theorem consume_ackRaw (s : State) : s.consume.ackRaw = s.ackRaw := rfl
@[simp] theorem consume_rdata (s : State) : s.consume.rdata = s.rdata := rfl
@[simp] theorem consume_pbit (s : State) : s.consume.pbit = s.pbit := rfl
@[simp] theorem consume_respStatus (s : State) : s.consume.respStatus = s.respStatus := rfl
@[simp] theorem consume_respData (s : State) : s.consume.respData = s.respData := rfl
@[simp] theorem consume_respHasData (s : State) : s.consume.respHasData = s.respHasData := rfl
@[simp] theorem consume_respValid (s : State) : s.consume.respValid = s.respValid := rfl
@[simp] theorem consume_err (s : State) : s.consume.err = s.err := rfl
@[simp] theorem consume_errCode (s : State) : s.consume.errCode = s.errCode := rfl
@[simp] theorem consume_resHdr (s : State) : s.consume.resHdr = s.resHdr := rfl
@[simp] theorem consume_resDec (s : State) : s.consume.resDec = s.resDec := rfl
@[simp] theorem consume_resBit (s : State) : s.consume.resBit = s.resBit := rfl
@[simp] theorem consume_resSize (s : State) : s.consume.resSize = s.resSize := rfl
@[simp] theorem consume_pkVal (s : State) : s.consume.pkVal = s.pkVal := rfl
@[simp] theorem consume_pkLen (s : State) : s.consume.pkLen = s.pkLen := rfl
@[simp] theorem consume_pkIdx (s : State) : s.consume.pkIdx = s.pkIdx := rfl
@[simp] theorem consume_tpTaken (s : State) : s.consume.tpTaken = s.tpTaken := rfl
@[simp] theorem consume_inputs (s : State) : s.consume.inputs = s.inputs.tail := rfl
@[simp] theorem consume_tpLog (s : State) : s.consume.tpLog = s.tpLog := rfl
@[simp] theorem consume_rspLog (s : State) : s.consume.rspLog = s.rspLog := rfl
@[simp] theorem consume_samples (s : State) : s.consume.samples = s.samples := rfl
@[simp] theorem consume_lineFramed (s : State) : s.consume.lineFramed = s.lineFramed := rfl
@[simp] theorem consume_freeCount (s : State) : s.consume.freeCount = s.freeCount := rfl
@[simp] theorem consume_maxPackBytes (s : State) : s.consume.maxPackBytes = s.maxPackBytes := rfl

@[simp] theorem emit_fsm (s : State) : (emit s).fsm = .rsp := rfl
@[simp] theorem emit_op (s : State) : (emit s).op = s.op := rfl
@[simp] theorem emit_isWr (s : State) : (emit s).isWr = s.isWr := rfl
@[simp] theorem emit_hdr (s : State) : (emit s).hdr = s.hdr := rfl
@[simp] theorem emit_wdata (s : State) : (emit s).wdata = s.wdata := rfl
@[simp] theorem emit_ackOff (s : State) : (emit s).ackOff = s.ackOff := rfl
@[simp] theorem emit_ackRaw (s : State) : (emit s).ackRaw = s.ackRaw := rfl
@[simp] theorem emit_rdata (s : State) : (emit s).rdata = s.rdata := rfl
@[simp] theorem emit_pbit (s : State) : (emit s).pbit = s.pbit := rfl
@[simp] theorem emit_respStatus (s : State) : (emit s).respStatus = s.respStatus := rfl
@[simp] theorem emit_respData (s : State) : (emit s).respData = s.respData := rfl
@[simp] theorem emit_respHasData (s : State) : (emit s).respHasData = s.respHasData := rfl
@[simp] theorem emit_respValid (s : State) : (emit s).respValid = s.respValid := rfl
@[simp] theorem emit_err (s : State) : (emit s).err = s.err := rfl
@[simp] theorem emit_errCode (s : State) : (emit s).errCode = s.errCode := rfl
@[simp] theorem emit_resHdr (s : State) : (emit s).resHdr = s.resHdr := rfl
@[simp] theorem emit_resDec (s : State) : (emit s).resDec = s.resDec := rfl
@[simp] theorem emit_resBit (s : State) : (emit s).resBit = s.resBit := rfl
@[simp] theorem emit_resSize (s : State) : (emit s).resSize = s.resSize := rfl
@[simp] theorem emit_pkVal (s : State) : (emit s).pkVal = s.pkVal := rfl
@[simp] theorem emit_pkLen (s : State) : (emit s).pkLen = s.pkLen := rfl
@[simp] theorem emit_pkIdx (s : State) : (emit s).pkIdx = s.pkIdx := rfl
@[simp] theorem emit_tpTaken (s : State) : (emit s).tpTaken = s.tpTaken := rfl
@[simp] theorem emit_inputs (s : State) : (emit s).inputs = s.inputs := rfl
@[simp] theorem emit_tpLog (s : State) : (emit s).tpLog = s.tpLog := rfl
@[simp] theorem emit_rspLog (s : State) : (emit s).rspLog = s.rspLog := rfl
@[simp] theorem emit_samples (s : State) : (emit s).samples = s.samples := rfl
@[simp] theorem emit_lineFramed (s : State) : (emit s).lineFramed = s.lineFramed := rfl
@[simp] theorem emit_freeCount (s : State) : (emit s).freeCount = s.freeCount := rfl
@[simp] theorem emit_maxPackBytes (s : State) : (emit s).maxPackBytes = s.maxPackBytes := rfl

@[simp] theorem raise_fsm (e : ErrKind) (c : Option TErr) (s : State) : (raise e c s).fsm = .rsp := rfl
@[simp] theorem raise_op (e : ErrKind) (c : Option TErr) (s : State) : (raise e c s).op = s.op := rfl
@[simp] theorem raise_isWr (e : ErrKind) (c : Option TErr) (s : State) : (raise e c s).isWr = s.isWr := rfl
@[simp] theorem raise_hdr (e : ErrKind) (c : Option TErr) (s : State) : (raise e c s).hdr = s.hdr := rfl
@[simp] theorem raise_wdata (e : ErrKind) (c : Option TErr) (s : State) : (raise e c s).wdata = s.wdata := rfl
@[simp] theorem raise_ackOff (e : ErrKind) (c : Option TErr) (s : State) : (raise e c s).ackOff = s.ackOff := rfl
@[simp] theorem raise_ackRaw (e : ErrKind) (c : Option TErr) (s : State) : (raise e c s).ackRaw = s.ackRaw := rfl
@[simp] theorem raise_rdata (e : ErrKind) (c : Option TErr) (s : State) : (raise e c s).rdata = s.rdata := rfl
@[simp] theorem raise_pbit (e : ErrKind) (c : Option TErr) (s : State) : (raise e c s).pbit = s.pbit := rfl
@[simp] theorem raise_respStatus (e : ErrKind) (c : Option TErr) (s : State) : (raise e c s).respStatus = s.respStatus := rfl
@[simp] theorem raise_respData (e : ErrKind) (c : Option TErr) (s : State) : (raise e c s).respData = s.respData := rfl
@[simp] theorem raise_respHasData (e : ErrKind) (c : Option TErr) (s : State) : (raise e c s).respHasData = s.respHasData := rfl
@[simp] theorem raise_respValid (e : ErrKind) (c : Option TErr) (s : State) : (raise e c s).respValid = s.respValid := rfl
@[simp] theorem raise_err (e : ErrKind) (c : Option TErr) (s : State) : (raise e c s).err = e := rfl
@[simp] theorem raise_errCode (e : ErrKind) (c : Option TErr) (s : State) : (raise e c s).errCode = c.getD s.errCode := rfl
@[simp] theorem raise_resHdr (e : ErrKind) (c : Option TErr) (s : State) : (raise e c s).resHdr = s.resHdr := rfl
@[simp] theorem raise_resDec (e : ErrKind) (c : Option TErr) (s : State) : (raise e c s).resDec = s.resDec := rfl
@[simp] theorem raise_resBit (e : ErrKind) (c : Option TErr) (s : State) : (raise e c s).resBit = s.resBit := rfl
@[simp] theorem raise_resSize (e : ErrKind) (c : Option TErr) (s : State) : (raise e c s).resSize = s.resSize := rfl
@[simp] theorem raise_pkVal (e : ErrKind) (c : Option TErr) (s : State) : (raise e c s).pkVal = s.pkVal := rfl
@[simp] theorem raise_pkLen (e : ErrKind) (c : Option TErr) (s : State) : (raise e c s).pkLen = s.pkLen := rfl
@[simp] theorem raise_pkIdx (e : ErrKind) (c : Option TErr) (s : State) : (raise e c s).pkIdx = s.pkIdx := rfl
@[simp] theorem raise_tpTaken (e : ErrKind) (c : Option TErr) (s : State) : (raise e c s).tpTaken = s.tpTaken := rfl
@[simp] theorem raise_inputs (e : ErrKind) (c : Option TErr) (s : State) : (raise e c s).inputs = s.inputs := rfl
@[simp] theorem raise_tpLog (e : ErrKind) (c : Option TErr) (s : State) : (raise e c s).tpLog = s.tpLog := rfl
@[simp] theorem raise_rspLog (e : ErrKind) (c : Option TErr) (s : State) : (raise e c s).rspLog = s.rspLog := rfl
@[simp] theorem raise_samples (e : ErrKind) (c : Option TErr) (s : State) : (raise e c s).samples = s.samples := rfl
@[simp] theorem raise_lineFramed (e : ErrKind) (c : Option TErr) (s : State) : (raise e c s).lineFramed = s.lineFramed := rfl
@[simp] theorem raise_freeCount (e : ErrKind) (c : Option TErr) (s : State) : (raise e c s).freeCount = s.freeCount := rfl
@[simp] theorem raise_maxPackBytes (e : ErrKind) (c : Option TErr) (s : State) : (raise e c s).maxPackBytes = s.maxPackBytes := rfl

@[simp] theorem abort_fsm (c : TErr) (s : State) : (abort c s).fsm = .rsp := rfl
@[simp] theorem abort_op (c : TErr) (s : State) : (abort c s).op = s.op := rfl
@[simp] theorem abort_isWr (c : TErr) (s : State) : (abort c s).isWr = s.isWr := rfl
@[simp] theorem abort_hdr (c : TErr) (s : State) : (abort c s).hdr = s.hdr := rfl
@[simp] theorem abort_wdata (c : TErr) (s : State) : (abort c s).wdata = s.wdata := rfl
@[simp] theorem abort_ackOff (c : TErr) (s : State) : (abort c s).ackOff = s.ackOff := rfl
@[simp] theorem abort_ackRaw (c : TErr) (s : State) : (abort c s).ackRaw = s.ackRaw := rfl
@[simp] theorem abort_rdata (c : TErr) (s : State) : (abort c s).rdata = s.rdata := rfl
@[simp] theorem abort_pbit (c : TErr) (s : State) : (abort c s).pbit = s.pbit := rfl
@[simp] theorem abort_respStatus (c : TErr) (s : State) : (abort c s).respStatus = s.respStatus := rfl
@[simp] theorem abort_respData (c : TErr) (s : State) : (abort c s).respData = s.respData := rfl
@[simp] theorem abort_respHasData (c : TErr) (s : State) : (abort c s).respHasData = s.respHasData := rfl
@[simp] theorem abort_respValid (c : TErr) (s : State) : (abort c s).respValid = s.respValid := rfl
@[simp] theorem abort_err (c : TErr) (s : State) : (abort c s).err = .transportError := rfl
@[simp] theorem abort_errCode (c : TErr) (s : State) : (abort c s).errCode = c := rfl
@[simp] theorem abort_resHdr (c : TErr) (s : State) : (abort c s).resHdr = s.resHdr := rfl
@[simp] theorem abort_resDec (c : TErr) (s : State) : (abort c s).resDec = s.resDec := rfl
@[simp] theorem abort_resBit (c : TErr) (s : State) : (abort c s).resBit = s.resBit := rfl
@[simp] theorem abort_resSize (c : TErr) (s : State) : (abort c s).resSize = s.resSize := rfl
@[simp] theorem abort_pkVal (c : TErr) (s : State) : (abort c s).pkVal = s.pkVal := rfl
@[simp] theorem abort_pkLen (c : TErr) (s : State) : (abort c s).pkLen = s.pkLen := rfl
@[simp] theorem abort_pkIdx (c : TErr) (s : State) : (abort c s).pkIdx = s.pkIdx := rfl
@[simp] theorem abort_tpTaken (c : TErr) (s : State) : (abort c s).tpTaken = s.tpTaken := rfl
@[simp] theorem abort_inputs (c : TErr) (s : State) : (abort c s).inputs = s.inputs := rfl
@[simp] theorem abort_tpLog (c : TErr) (s : State) : (abort c s).tpLog = s.tpLog := rfl
@[simp] theorem abort_rspLog (c : TErr) (s : State) : (abort c s).rspLog = s.rspLog := rfl
@[simp] theorem abort_samples (c : TErr) (s : State) : (abort c s).samples = s.samples := rfl
@[simp] theorem abort_lineFramed (c : TErr) (s : State) : (abort c s).lineFramed = false := rfl
@[simp] theorem abort_freeCount (c : TErr) (s : State) : (abort c s).freeCount = s.freeCount := rfl
@[simp] theorem abort_maxPackBytes (c : TErr) (s : State) : (abort c s).maxPackBytes = s.maxPackBytes := rfl

@[simp] theorem logTp_fsm (e : TpEvent) (s : State) : (logTp e s).fsm = s.fsm := rfl
@[simp] theorem logTp_op (e : TpEvent) (s : State) : (logTp e s).op = s.op := rfl
@[simp] theorem logTp_isWr (e : TpEvent) (s : State) : (logTp e s).isWr = s.isWr := rfl
@[simp] theorem logTp_hdr (e : TpEvent) (s : State) : (logTp e s).hdr = s.hdr := rfl
@[simp] theorem logTp_wdata (e : TpEvent) (s : State) : (logTp e s).wdata = s.wdata := rfl
@[simp] theorem logTp_ackOff (e : TpEvent) (s : State) : (logTp e s).ackOff = s.ackOff := rfl
@[simp] theorem logTp_ackRaw (e : TpEvent) (s : State) : (logTp e s).ackRaw = s.ackRaw := rfl
@[simp] theorem logTp_rdata (e : TpEvent) (s : State) : (logTp e s).rdata = s.rdata := rfl
@[simp] theorem logTp_pbit (e : TpEvent) (s : State) : (logTp e s).pbit = s.pbit := rfl
@[simp] theorem logTp_respStatus (e : TpEvent) (s : State) : (logTp e s).respStatus = s.respStatus := rfl
@[simp] theorem logTp_respData (e : TpEvent) (s : State) : (logTp e s).respData = s.respData := rfl
@[simp] theorem logTp_respHasData (e : TpEvent) (s : State) : (logTp e s).respHasData = s.respHasData := rfl
@[simp] theorem logTp_respValid (e : TpEvent) (s : State) : (logTp e s).respValid = s.respValid := rfl
@[simp] theorem logTp_err (e : TpEvent) (s : State) : (logTp e s).err = s.err := rfl
@[simp] theorem logTp_errCode (e : TpEvent) (s : State) : (logTp e s).errCode = s.errCode := rfl
@[simp] theorem logTp_resHdr (e : TpEvent) (s : State) : (logTp e s).resHdr = s.resHdr := rfl
@[simp] theorem logTp_resDec (e : TpEvent) (s : State) : (logTp e s).resDec = s.resDec := rfl
@[simp] theorem logTp_resBit (e : TpEvent) (s : State) : (logTp e s).resBit = s.resBit := rfl
@[simp] theorem logTp_resSize (e : TpEvent) (s : State) : (logTp e s).resSize = s.resSize := rfl
@[simp] theorem logTp_pkVal (e : TpEvent) (s : State) : (logTp e s).pkVal = s.pkVal := rfl
@[simp] theorem logTp_pkLen (e : TpEvent) (s : State) : (logTp e s).pkLen = s.pkLen := rfl
@[simp] theorem logTp_pkIdx (e : TpEvent) (s : State) : (logTp e s).pkIdx = s.pkIdx := rfl
@[simp] theorem logTp_tpTaken (e : TpEvent) (s : State) : (logTp e s).tpTaken = s.tpTaken := rfl
@[simp] theorem logTp_inputs (e : TpEvent) (s : State) : (logTp e s).inputs = s.inputs := rfl
@[simp] theorem logTp_tpLog (e : TpEvent) (s : State) : (logTp e s).tpLog = s.tpLog ++ [e] := rfl
@[simp] theorem logTp_rspLog (e : TpEvent) (s : State) : (logTp e s).rspLog = s.rspLog := rfl
@[simp] theorem logTp_samples (e : TpEvent) (s : State) : (logTp e s).samples = s.samples := rfl
@[simp] theorem logTp_lineFramed (e : TpEvent) (s : State) : (logTp e s).lineFramed = s.lineFramed := rfl
@[simp] theorem logTp_freeCount (e : TpEvent) (s : State) : (logTp e s).freeCount = s.freeCount := rfl
@[simp] theorem logTp_maxPackBytes (e : TpEvent) (s : State) : (logTp e s).maxPackBytes = s.maxPackBytes := rfl

@[simp] theorem logBeat_fsm (s : State) : (logBeat s).fsm = s.fsm := by unfold logBeat; split <;> rfl
@[simp] theorem logBeat_op (s : State) : (logBeat s).op = s.op := by unfold logBeat; split <;> rfl
@[simp] theorem logBeat_isWr (s : State) : (logBeat s).isWr = s.isWr := by unfold logBeat; split <;> rfl
@[simp] theorem logBeat_hdr (s : State) : (logBeat s).hdr = s.hdr := by unfold logBeat; split <;> rfl
@[simp] theorem logBeat_wdata (s : State) : (logBeat s).wdata = s.wdata := by unfold logBeat; split <;> rfl
@[simp] theorem logBeat_ackOff (s : State) : (logBeat s).ackOff = s.ackOff := by unfold logBeat; split <;> rfl
@[simp] theorem logBeat_ackRaw (s : State) : (logBeat s).ackRaw = s.ackRaw := by unfold logBeat; split <;> rfl
@[simp] theorem logBeat_rdata (s : State) : (logBeat s).rdata = s.rdata := by unfold logBeat; split <;> rfl
@[simp] theorem logBeat_pbit (s : State) : (logBeat s).pbit = s.pbit := by unfold logBeat; split <;> rfl
@[simp] theorem logBeat_respStatus (s : State) : (logBeat s).respStatus = s.respStatus := by unfold logBeat; split <;> rfl
@[simp] theorem logBeat_respData (s : State) : (logBeat s).respData = s.respData := by unfold logBeat; split <;> rfl
@[simp] theorem logBeat_respHasData (s : State) : (logBeat s).respHasData = s.respHasData := by unfold logBeat; split <;> rfl
@[simp] theorem logBeat_respValid (s : State) : (logBeat s).respValid = s.respValid := by unfold logBeat; split <;> rfl
@[simp] theorem logBeat_err (s : State) : (logBeat s).err = s.err := by unfold logBeat; split <;> rfl
@[simp] theorem logBeat_errCode (s : State) : (logBeat s).errCode = s.errCode := by unfold logBeat; split <;> rfl
@[simp] theorem logBeat_resHdr (s : State) : (logBeat s).resHdr = s.resHdr := by unfold logBeat; split <;> rfl
@[simp] theorem logBeat_resDec (s : State) : (logBeat s).resDec = s.resDec := by unfold logBeat; split <;> rfl
@[simp] theorem logBeat_resBit (s : State) : (logBeat s).resBit = s.resBit := by unfold logBeat; split <;> rfl
@[simp] theorem logBeat_resSize (s : State) : (logBeat s).resSize = s.resSize := by unfold logBeat; split <;> rfl
@[simp] theorem logBeat_pkVal (s : State) : (logBeat s).pkVal = s.pkVal := by unfold logBeat; split <;> rfl
@[simp] theorem logBeat_pkLen (s : State) : (logBeat s).pkLen = s.pkLen := by unfold logBeat; split <;> rfl
@[simp] theorem logBeat_pkIdx (s : State) : (logBeat s).pkIdx = s.pkIdx := by unfold logBeat; split <;> rfl
@[simp] theorem logBeat_tpTaken (s : State) : (logBeat s).tpTaken = s.tpTaken := by unfold logBeat; split <;> rfl
@[simp] theorem logBeat_inputs (s : State) : (logBeat s).inputs = s.inputs := by unfold logBeat; split <;> rfl
@[simp] theorem logBeat_tpLog (s : State) : (logBeat s).tpLog = s.tpLog := by unfold logBeat; split <;> rfl
@[simp] theorem logBeat_samples (s : State) : (logBeat s).samples = s.samples := by unfold logBeat; split <;> rfl
@[simp] theorem logBeat_lineFramed (s : State) : (logBeat s).lineFramed = s.lineFramed := by unfold logBeat; split <;> rfl
@[simp] theorem logBeat_freeCount (s : State) : (logBeat s).freeCount = s.freeCount := by unfold logBeat; split <;> rfl
@[simp] theorem logBeat_maxPackBytes (s : State) : (logBeat s).maxPackBytes = s.maxPackBytes := by unfold logBeat; split <;> rfl

@[simp] theorem takeBeat_fsm (s : State) : (takeBeat s).fsm = .idle := rfl
@[simp] theorem takeBeat_op (s : State) : (takeBeat s).op = s.op := by unfold takeBeat; simp
@[simp] theorem takeBeat_isWr (s : State) : (takeBeat s).isWr = s.isWr := by unfold takeBeat; simp
@[simp] theorem takeBeat_hdr (s : State) : (takeBeat s).hdr = s.hdr := by unfold takeBeat; simp
@[simp] theorem takeBeat_wdata (s : State) : (takeBeat s).wdata = s.wdata := by unfold takeBeat; simp
@[simp] theorem takeBeat_ackOff (s : State) : (takeBeat s).ackOff = s.ackOff := by unfold takeBeat; simp
@[simp] theorem takeBeat_ackRaw (s : State) : (takeBeat s).ackRaw = s.ackRaw := by unfold takeBeat; simp
@[simp] theorem takeBeat_rdata (s : State) : (takeBeat s).rdata = s.rdata := by unfold takeBeat; simp
@[simp] theorem takeBeat_pbit (s : State) : (takeBeat s).pbit = s.pbit := by unfold takeBeat; simp
@[simp] theorem takeBeat_respStatus (s : State) : (takeBeat s).respStatus = s.respStatus := by unfold takeBeat; simp
@[simp] theorem takeBeat_respData (s : State) : (takeBeat s).respData = s.respData := by unfold takeBeat; simp
@[simp] theorem takeBeat_respHasData (s : State) : (takeBeat s).respHasData = s.respHasData := by unfold takeBeat; simp
@[simp] theorem takeBeat_respValid (s : State) : (takeBeat s).respValid = s.respValid := by unfold takeBeat; simp
@[simp] theorem takeBeat_err (s : State) : (takeBeat s).err = s.err := by unfold takeBeat; simp
@[simp] theorem takeBeat_errCode (s : State) : (takeBeat s).errCode = s.errCode := by unfold takeBeat; simp
@[simp] theorem takeBeat_resHdr (s : State) : (takeBeat s).resHdr = s.resHdr := by unfold takeBeat; simp
@[simp] theorem takeBeat_resDec (s : State) : (takeBeat s).resDec = s.resDec := by unfold takeBeat; simp
@[simp] theorem takeBeat_resBit (s : State) : (takeBeat s).resBit = s.resBit := by unfold takeBeat; simp
@[simp] theorem takeBeat_resSize (s : State) : (takeBeat s).resSize = s.resSize := by unfold takeBeat; simp
@[simp] theorem takeBeat_pkVal (s : State) : (takeBeat s).pkVal = s.pkVal := by unfold takeBeat; simp
@[simp] theorem takeBeat_pkLen (s : State) : (takeBeat s).pkLen = s.pkLen := by unfold takeBeat; simp
@[simp] theorem takeBeat_pkIdx (s : State) : (takeBeat s).pkIdx = s.pkIdx := by unfold takeBeat; simp
@[simp] theorem takeBeat_tpTaken (s : State) : (takeBeat s).tpTaken = s.tpTaken := by unfold takeBeat; simp
@[simp] theorem takeBeat_inputs (s : State) : (takeBeat s).inputs = s.inputs := by unfold takeBeat; simp
@[simp] theorem takeBeat_tpLog (s : State) : (takeBeat s).tpLog = s.tpLog := by unfold takeBeat; simp
@[simp] theorem takeBeat_rspLog (s : State) : (takeBeat s).rspLog = (logBeat s).rspLog := rfl
@[simp] theorem takeBeat_samples (s : State) : (takeBeat s).samples = s.samples := by unfold takeBeat; simp
@[simp] theorem takeBeat_lineFramed (s : State) : (takeBeat s).lineFramed = s.lineFramed := by unfold takeBeat; simp
@[simp] theorem takeBeat_freeCount (s : State) : (takeBeat s).freeCount = s.freeCount := by unfold takeBeat; simp
@[simp] theorem takeBeat_maxPackBytes (s : State) : (takeBeat s).maxPackBytes = s.maxPackBytes := by unfold takeBeat; simp

@[simp] theorem noteLine_fsm (s : State) : (noteLine s).fsm = s.fsm := rfl
@[simp] theorem noteLine_op (s : State) : (noteLine s).op = s.op := rfl
@[simp] theorem noteLine_isWr (s : State) : (noteLine s).isWr = s.isWr := rfl
@[simp] theorem noteLine_hdr (s : State) : (noteLine s).hdr = s.hdr := rfl
@[simp] theorem noteLine_wdata (s : State) : (noteLine s).wdata = s.wdata := rfl
@[simp] theorem noteLine_ackOff (s : State) : (noteLine s).ackOff = s.ackOff := rfl
@[simp] theorem noteLine_ackRaw (s : State) : (noteLine s).ackRaw = s.ackRaw := rfl
@[simp] theorem noteLine_rdata (s : State) : (noteLine s).rdata = s.rdata := rfl
@[simp] theorem noteLine_pbit (s : State) : (noteLine s).pbit = s.pbit := rfl
@[simp] theorem noteLine_respStatus (s : State) : (noteLine s).respStatus = s.respStatus := rfl
@[simp] theorem noteLine_respData (s : State) : (noteLine s).respData = s.respData := rfl
@[simp] theorem noteLine_respHasData (s : State) : (noteLine s).respHasData = s.respHasData := rfl
@[simp] theorem noteLine_respValid (s : State) : (noteLine s).respValid = s.respValid := rfl
@[simp] theorem noteLine_err (s : State) : (noteLine s).err = s.err := rfl
@[simp] theorem noteLine_errCode (s : State) : (noteLine s).errCode = s.errCode := rfl
@[simp] theorem noteLine_resHdr (s : State) : (noteLine s).resHdr = s.resHdr := rfl
@[simp] theorem noteLine_resDec (s : State) : (noteLine s).resDec = s.resDec := rfl
@[simp] theorem noteLine_resBit (s : State) : (noteLine s).resBit = s.resBit := rfl
@[simp] theorem noteLine_resSize (s : State) : (noteLine s).resSize = s.resSize := rfl
@[simp] theorem noteLine_pkVal (s : State) : (noteLine s).pkVal = s.pkVal := rfl
@[simp] theorem noteLine_pkLen (s : State) : (noteLine s).pkLen = s.pkLen := rfl
@[simp] theorem noteLine_pkIdx (s : State) : (noteLine s).pkIdx = s.pkIdx := rfl
@[simp] theorem noteLine_tpTaken (s : State) : (noteLine s).tpTaken = s.tpTaken := rfl
@[simp] theorem noteLine_inputs (s : State) : (noteLine s).inputs = s.inputs := rfl
@[simp] theorem noteLine_tpLog (s : State) : (noteLine s).tpLog = s.tpLog := rfl
@[simp] theorem noteLine_rspLog (s : State) : (noteLine s).rspLog = s.rspLog := rfl
@[simp] theorem noteLine_samples (s : State) : (noteLine s).samples = s.samples := rfl
@[simp] theorem noteLine_freeCount (s : State) : (noteLine s).freeCount = s.freeCount := rfl
@[simp] theorem noteLine_maxPackBytes (s : State) : (noteLine s).maxPackBytes = s.maxPackBytes := rfl

@[simp] theorem addSamples_fsm (l) (s : State) : (addSamples l s).fsm = s.fsm := rfl
@[simp] theorem addSamples_op (l) (s : State) : (addSamples l s).op = s.op := rfl
@[simp] theorem addSamples_isWr (l) (s : State) : (addSamples l s).isWr = s.isWr := rfl
@[simp] theorem addSamples_hdr (l) (s : State) : (addSamples l s).hdr = s.hdr := rfl
@[simp] theorem addSamples_wdata (l) (s : State) : (addSamples l s).wdata = s.wdata := rfl
@[simp] theorem addSamples_ackOff (l) (s : State) : (addSamples l s).ackOff = s.ackOff := rfl
@[simp] theorem addSamples_ackRaw (l) (s : State) : (addSamples l s).ackRaw = s.ackRaw := rfl
@[simp] theorem addSamples_rdata (l) (s : State) : (addSamples l s).rdata = s.rdata := rfl
@[simp] theorem addSamples_pbit (l) (s : State) : (addSamples l s).pbit = s.pbit := rfl
@[simp] theorem addSamples_respStatus (l) (s : State) : (addSamples l s).respStatus = s.respStatus := rfl
@[simp] theorem addSamples_respData (l) (s : State) : (addSamples l s).respData = s.respData := rfl
@[simp] theorem addSamples_respHasData (l) (s : State) : (addSamples l s).respHasData = s.respHasData := rfl
@[simp] theorem addSamples_respValid (l) (s : State) : (addSamples l s).respValid = s.respValid := rfl
@[simp] theorem addSamples_err (l) (s : State) : (addSamples l s).err = s.err := rfl
@[simp] theorem addSamples_errCode (l) (s : State) : (addSamples l s).errCode = s.errCode := rfl
@[simp] theorem addSamples_resHdr (l) (s : State) : (addSamples l s).resHdr = s.resHdr := rfl
@[simp] theorem addSamples_resDec (l) (s : State) : (addSamples l s).resDec = s.resDec := rfl
@[simp] theorem addSamples_resBit (l) (s : State) : (addSamples l s).resBit = s.resBit := rfl
@[simp] theorem addSamples_resSize (l) (s : State) : (addSamples l s).resSize = s.resSize := rfl
@[simp] theorem addSamples_pkVal (l) (s : State) : (addSamples l s).pkVal = s.pkVal := rfl
@[simp] theorem addSamples_pkLen (l) (s : State) : (addSamples l s).pkLen = s.pkLen := rfl
@[simp] theorem addSamples_pkIdx (l) (s : State) : (addSamples l s).pkIdx = s.pkIdx := rfl
@[simp] theorem addSamples_tpTaken (l) (s : State) : (addSamples l s).tpTaken = s.tpTaken := rfl
@[simp] theorem addSamples_inputs (l) (s : State) : (addSamples l s).inputs = s.inputs := rfl
@[simp] theorem addSamples_tpLog (l) (s : State) : (addSamples l s).tpLog = s.tpLog := rfl
@[simp] theorem addSamples_rspLog (l) (s : State) : (addSamples l s).rspLog = s.rspLog := rfl
@[simp] theorem addSamples_samples (l) (s : State) : (addSamples l s).samples = s.samples ++ l := rfl
@[simp] theorem addSamples_lineFramed (l) (s : State) : (addSamples l s).lineFramed = s.lineFramed := rfl
@[simp] theorem addSamples_freeCount (l) (s : State) : (addSamples l s).freeCount = s.freeCount := rfl
@[simp] theorem addSamples_maxPackBytes (l) (s : State) : (addSamples l s).maxPackBytes = s.maxPackBytes := rfl

@[simp] theorem packBeat_op (s : State) : (packBeat s).op = s.op := by unfold packBeat; split <;> simp
@[simp] theorem packBeat_isWr (s : State) : (packBeat s).isWr = s.isWr := by unfold packBeat; split <;> simp
@[simp] theorem packBeat_hdr (s : State) : (packBeat s).hdr = s.hdr := by unfold packBeat; split <;> simp
@[simp] theorem packBeat_wdata (s : State) : (packBeat s).wdata = s.wdata := by unfold packBeat; split <;> simp
@[simp] theorem packBeat_ackOff (s : State) : (packBeat s).ackOff = s.ackOff := by unfold packBeat; split <;> simp
@[simp] theorem packBeat_ackRaw (s : State) : (packBeat s).ackRaw = s.ackRaw := by unfold packBeat; split <;> simp
@[simp] theorem packBeat_rdata (s : State) : (packBeat s).rdata = s.rdata := by unfold packBeat; split <;> simp
@[simp] theorem packBeat_pbit (s : State) : (packBeat s).pbit = s.pbit := by unfold packBeat; split <;> simp
@[simp] theorem packBeat_respStatus (s : State) : (packBeat s).respStatus = s.respStatus := by unfold packBeat; split <;> simp
@[simp] theorem packBeat_respData (s : State) : (packBeat s).respData = s.respData := by unfold packBeat; split <;> simp
@[simp] theorem packBeat_respHasData (s : State) : (packBeat s).respHasData = s.respHasData := by unfold packBeat; split <;> simp
@[simp] theorem packBeat_respValid (s : State) : (packBeat s).respValid = s.respValid := by unfold packBeat; split <;> simp
@[simp] theorem packBeat_err (s : State) : (packBeat s).err = s.err := by unfold packBeat; split <;> simp
@[simp] theorem packBeat_errCode (s : State) : (packBeat s).errCode = s.errCode := by unfold packBeat; split <;> simp
@[simp] theorem packBeat_resHdr (s : State) : (packBeat s).resHdr = s.resHdr := by unfold packBeat; split <;> simp
@[simp] theorem packBeat_resDec (s : State) : (packBeat s).resDec = s.resDec := by unfold packBeat; split <;> simp
@[simp] theorem packBeat_resBit (s : State) : (packBeat s).resBit = s.resBit := by unfold packBeat; split <;> simp
@[simp] theorem packBeat_resSize (s : State) : (packBeat s).resSize = s.resSize := by unfold packBeat; split <;> simp
@[simp] theorem packBeat_pkVal (s : State) : (packBeat s).pkVal = s.pkVal := by unfold packBeat; split <;> simp
@[simp] theorem packBeat_pkLen (s : State) : (packBeat s).pkLen = s.pkLen := by unfold packBeat; split <;> simp
@[simp] theorem packBeat_tpTaken (s : State) : (packBeat s).tpTaken = s.tpTaken := by unfold packBeat; split <;> simp
@[simp] theorem packBeat_inputs (s : State) : (packBeat s).inputs = s.inputs := by unfold packBeat; split <;> simp
@[simp] theorem packBeat_tpLog (s : State) : (packBeat s).tpLog = s.tpLog := by unfold packBeat; split <;> simp
@[simp] theorem packBeat_samples (s : State) : (packBeat s).samples = s.samples := by unfold packBeat; split <;> simp
@[simp] theorem packBeat_lineFramed (s : State) : (packBeat s).lineFramed = s.lineFramed := by unfold packBeat; split <;> simp
@[simp] theorem packBeat_freeCount (s : State) : (packBeat s).freeCount = s.freeCount := by unfold packBeat; split <;> simp
@[simp] theorem packBeat_maxPackBytes (s : State) : (packBeat s).maxPackBytes = s.maxPackBytes := by unfold packBeat; split <;> simp
@[simp] theorem packBeat_rspLog (s : State) : (packBeat s).rspLog = (logBeat s).rspLog := by unfold packBeat; split <;> simp
theorem packBeat_fsm (s : State) : (packBeat s).fsm = if s.pkIdx = s.pkLen - 1 then .idle else s.fsm := by
  unfold packBeat; split <;> simp
theorem packBeat_pkIdx (s : State) : (packBeat s).pkIdx = if s.pkIdx = s.pkLen - 1 then s.pkIdx else s.pkIdx + 1 := by
  unfold packBeat; split <;> simp

end Sys2Proof.Machine
end

