-- ==== Sys2Proof/Laws/Ops.lean ====
section
/-!
SUPPORT. What each shared operation can do, said once.
-/

namespace Sys2Proof.Machine

@[simp] theorem andThen_next (s : State) (f) : andThen (.next s) f = f s := rfl
@[simp] theorem andThen_fault (r : Fault) (f) : andThen (.fault r) f = .fault r := rfl
@[simp] theorem andThen_refused (r : Refusal) (f) : andThen (.refused r) f = .refused r := rfl

/-- An outcome that goes on to a next state passed through one. -/
theorem andThen_eq_next {o f t} (h : andThen o f = .next t) : ∃ u, o = .next u ∧ f u = .next t := by
  cases o with
  | next u => exact ⟨u, rfl, h⟩
  | fault r => cases h
  | refused r => cases h

theorem atCommandBeat_idle {s : State} (k) (h : s.fsm = .idle) : atCommandBeat s k = k s := by
  simp [atCommandBeat, h]

theorem atCommandBeat_busy {s : State} (k) (h : s.fsm ≠ .idle) : atCommandBeat s k = .next s := by
  simp [atCommandBeat, h]

/-- The ports read only registers: states that agree on those offer the same beat. -/
theorem rspPort_congr {s t : State} (h1 : t.fsm = s.fsm) (h2 : t.op = s.op) (h3 : t.err = s.err)
    (h4 : rspBody t = rspBody s) : rspPort t = rspPort s := by
  simp [rspPort, State.rspValid, h1, h2, h3, h4]

@[simp] theorem rspPort_noteLine (s : State) : rspPort (noteLine s) = rspPort s := rfl
@[simp] theorem rspPort_inputs (s : State) (l) : rspPort { s with inputs := l } = rspPort s := rfl
@[simp] theorem rspPort_addSamples (l) (s : State) : rspPort (addSamples l s) = rspPort s := rfl
@[simp] theorem rspBody_addSamples (l) (s : State) : rspBody (addSamples l s) = rspBody s := rfl
@[simp] theorem rspBody_noteLine (s : State) : rspBody (noteLine s) = rspBody s := rfl
@[simp] theorem portField_addSamples (l) (s : State) (f) : portField (addSamples l s) f = portField s f := rfl
@[simp] theorem portField_noteLine (s : State) (f) : portField (noteLine s) f = portField s f := rfl
@[simp] theorem now_noteLine (s : State) : (noteLine s).now = s.now := rfl
@[simp] theorem now_addSamples (l) (s : State) : (addSamples l s).now = s.now := rfl
@[simp] theorem now_cons (s : State) (e l) : State.now { s with inputs := e :: l } = e := rfl
theorem now_of_inputs {s : State} {e l} (h : s.inputs = e :: l) : s.now = e := by simp [State.now, h]
@[simp] theorem txnOffered_noteLine (s : State) : (noteLine s).txnOffered = s.txnOffered := rfl
@[simp] theorem txnOffered_addSamples (l) (s : State) : (addSamples l s).txnOffered = s.txnOffered := rfl
@[simp] theorem addSamples_nil (s : State) : addSamples [] s = s := by simp [addSamples]

/-- A beat is recorded exactly when one is offered. -/
theorem logBeat_rspLog (s : State) :
    (rspPort s = none ∧ (logBeat s).rspLog = s.rspLog) ∨
    ∃ b, rspPort s = some b ∧ (logBeat s).rspLog = s.rspLog ++ [b] := by
  unfold logBeat
  cases h : rspPort s with
  | none => exact .inl ⟨rfl, rfl⟩
  | some b => exact .inr ⟨b, rfl, rfl⟩

theorem logBeat_of_some {s : State} {b} (h : rspPort s = some b) :
    logBeat s = { s with rspLog := s.rspLog ++ [b] } := by simp [logBeat, h]

theorem takeBeat_of_some {s : State} {b} (h : rspPort s = some b) :
    takeBeat s = { s with rspLog := s.rspLog ++ [b], fsm := .idle } := by
  simp [takeBeat, logBeat_of_some h]

theorem rspPort_of_rsp {s : State} (h : s.fsm = .rsp) :
    rspPort s = some { op := s.op, err := s.err, body := rspBody s } := by
  simp [rspPort, State.rspValid, h]

theorem rspPort_of_pkOut {s : State} (h : s.fsm = .pkOut) :
    rspPort s = some { op := s.op, err := s.err, body := rspBody s } := by
  simp [rspPort, State.rspValid, h]

/-- The caller's read: the field's value is recorded, or it has none and the read faults. -/
theorem sampleField_cases (f : RspField) (s : State) :
    (∃ v, portField s f = some v ∧ sampleField f s = .next (addSamples [(f, v)] s)) ∨
    (portField s f = none ∧ sampleField f s = .fault (.noValue f)) := by
  unfold sampleField
  cases h : portField s f with
  | none => exact .inr ⟨rfl, rfl⟩
  | some v => exact .inl ⟨v, rfl, rfl⟩

/-- One event of a transport request: it waits, is taken, is answered with an error, or is answered. -/
theorem transportBeat_cases (r : TpReq) (onOk) (s : State) :
    (s.tpTaken = false ∧ s.now.tpReqReady = false ∧ transportBeat r onOk s = s) ∨
    (s.tpTaken = false ∧ s.now.tpReqReady = true ∧
      transportBeat r onOk s = logTp (.request r) { s with tpTaken := true }) ∨
    (s.tpTaken = true ∧ s.now.answer = none ∧ transportBeat r onOk s = s) ∨
    (∃ a, s.tpTaken = true ∧ s.now.answer = some a ∧ a.err = true ∧
      transportBeat r onOk s = abort a.errCode (logTp (.failed a.errCode) { s with tpTaken := false })) ∨
    (∃ a, s.tpTaken = true ∧ s.now.answer = some a ∧ a.err = false ∧
      transportBeat r onOk s = onOk a (logTp (answerEvent r a) { s with tpTaken := false })) := by
  unfold transportBeat
  cases ht : s.tpTaken with
  | false =>
    cases hr : s.now.tpReqReady with
    | false => simp
    | true => simp
  | true =>
    cases ha : s.now.answer with
    | none => simp
    | some a =>
      cases he : a.err with
      | true => simp [he, answerEvent]
      | false => simp [he]

@[simp] theorem tpKindBits_write (v n d) : tpKindBits (.write v n d) = 0 := rfl
@[simp] theorem tpKindBits_read (o n) : tpKindBits (.read o n) = 1 := rfl
@[simp] theorem TpReq.value_write (v n d) : (TpReq.write v n d).value = some v := rfl
@[simp] theorem TpReq.value_read (o n) : (TpReq.read o n).value = none := rfl
@[simp] theorem TpReq.count_write (v n d) : (TpReq.write v n d).count = n := rfl
@[simp] theorem TpReq.count_read (o n) : (TpReq.read o n).count = n := rfl
@[simp] theorem TpReq.offset_write (v n d) : (TpReq.write v n d).offset = none := rfl
@[simp] theorem TpReq.offset_read (o n) : (TpReq.read o n).offset = some o := rfl
@[simp] theorem TpReq.dir_write (v n d) : (TpReq.write v n d).dir = some (dirBits d) := rfl
@[simp] theorem TpReq.dir_read (o n) : (TpReq.read o n).dir = none := rfl

/-- A transaction state is a READ or a WRITE state, never both. -/
theorem inWrite_eq (f : Fsm) : f.inWrite = (f.inTxn && !f.inRead) := by cases f <;> rfl

theorem not_inTxn {f : Fsm} (h : f = .idle ∨ f = .rsp ∨ f = .pkOut) : f.inTxn = false := by
  rcases h with rfl | rfl | rfl <;> rfl

/-- A parity status is INVALID exactly when the bits differ. -/
theorem parityStatus_invalid (a b : BitVec 1) : parityStatus a b = 0xF#4 ↔ a ≠ b := by
  revert a b; decide

/-- The end of a transaction without error. -/
theorem complete_fields (st : BitVec 4) (d : Option Data) (s : State) :
    ∃ x n, complete st d s = { s with
      fsm := .rsp, respStatus := st, respData := x, respHasData := d.isSome, respValid := true
      err := .none, freeCount := n } ∧ (∀ y, d = some y → x = y) := by
  cases d with
  | none => exact ⟨_, _, rfl, by simp⟩
  | some y => exact ⟨y, s.freeCount, rfl, by simp⟩

end Sys2Proof.Machine
end

