-- ==== Sys2Proof/Laws/PerInstr.lean ====
section
/-!
SUPPORT. The family RowMatches: the encoder of every instruction follows its row of the opcode table.
-/

namespace Sys2Proof.Laws

/-- The word of an instruction has the fixed bits of its row, whatever its fields are. -/
def RowMatches.Statement (i : Instr) : Prop :=
  (opcodeRow i).matchesWord (encode i) = true

theorem RowMatches.buildHeader (addr : BitVec 2) (isAp isWrite : Bool) :
    RowMatches.Statement (.buildHeader addr isAp isWrite) := by
  unfold RowMatches.Statement
  revert addr isAp isWrite
  decide +kernel

theorem RowMatches.decodeHeader : RowMatches.Statement .decodeHeader := by
  unfold RowMatches.Statement
  decide +kernel

theorem RowMatches.read (addr : BitVec 2) (isAp : Bool) : RowMatches.Statement (.read addr isAp) := by
  unfold RowMatches.Statement
  revert addr isAp
  decide +kernel

theorem RowMatches.write (addr : BitVec 2) (isAp : Bool) : RowMatches.Statement (.write addr isAp) := by
  unfold RowMatches.Statement
  revert addr isAp
  decide +kernel

theorem RowMatches.parity : RowMatches.Statement .parity := by
  unfold RowMatches.Statement
  decide +kernel

theorem RowMatches.packSize : RowMatches.Statement .packSize := by
  unfold RowMatches.Statement
  decide +kernel

theorem RowMatches.pack (bitsGiven : Bool) : RowMatches.Statement (.pack bitsGiven) := by
  unfold RowMatches.Statement
  revert bitsGiven
  decide +kernel

theorem RowMatches.dpRead (p : Bool) (addr : BitVec 2) : RowMatches.Statement (.dpRead p addr) := by
  unfold RowMatches.Statement
  revert p addr
  decide +kernel

theorem RowMatches.dpWrite (p : Bool) (addr : BitVec 2) : RowMatches.Statement (.dpWrite p addr) := by
  unfold RowMatches.Statement
  revert p addr
  decide +kernel

theorem RowMatches.apRead (p : Bool) (addr : BitVec 2) : RowMatches.Statement (.apRead p addr) := by
  unfold RowMatches.Statement
  revert p addr
  decide +kernel

theorem RowMatches.apWrite (p : Bool) (addr : BitVec 2) : RowMatches.Statement (.apWrite p addr) := by
  unfold RowMatches.Statement
  revert p addr
  decide +kernel

theorem RowMatches.isAck : RowMatches.Statement .isAck := by
  unfold RowMatches.Statement
  decide +kernel

theorem RowMatches.isWait : RowMatches.Statement .isWait := by
  unfold RowMatches.Statement
  decide +kernel

theorem RowMatches.isFault : RowMatches.Statement .isFault := by
  unfold RowMatches.Statement
  decide +kernel

theorem RowMatches.isInvalid : RowMatches.Statement .isInvalid := by
  unfold RowMatches.Statement
  decide +kernel

end Sys2Proof.Laws
end

