-- ==== Sys2Proof/Laws/Step.lean ====
section
/-!
SUPPORT. What one step can do, said once: `step_cases` and, for the block's own part, `runEvent_cases`.
-/

namespace Sys2Proof.Machine

/-- The caller's read at an event only records what was read. -/
theorem callerSample_cases {s t : State} (h : callerSample s = .next t) :
    ∃ l, t = addSamples l s := by
  unfold callerSample at h
  split at h
  · cases h; exact ⟨[], by simp⟩
  · next f _ =>
    rcases sampleField_cases f s with ⟨v, _, e⟩ | ⟨_, e⟩
    · rw [e] at h; cases h; exact ⟨_, rfl⟩
    · rw [e] at h; cases h

/-- A step that goes on: reset, or the caller's read and then the block's own part. -/
theorem step_cases {s t : State} (h : step s = .next t) :
    (s.now.rst = true ∧ t = (hardReset (noteLine s)).consume) ∨
    (s.now.rst = false ∧ ∃ l v, runEvent (addSamples l (noteLine s)) = .next v ∧
      t = v.consume) := by
  unfold step event at h
  by_cases hr : (noteLine s).now.rst = true
  · rw [if_pos hr] at h
    cases h
    exact .inl ⟨hr, rfl⟩
  · rw [if_neg hr] at h
    obtain ⟨u, hu, h1⟩ := andThen_eq_next h
    obtain ⟨v, hv, h2⟩ := andThen_eq_next (o := runEvent u) h1
    obtain ⟨l, rfl⟩ := callerSample_cases hu
    cases h2
    exact .inr ⟨Bool.eq_false_iff.mpr hr, l, v, hv, rfl⟩

/-- A quiet event is the block's own part alone. -/
theorem step_quiet {s : State} (h : s.now.quiet = true) :
    step s = andThen (runEvent (noteLine s)) fun t => .next t.consume := by
  have h1 : s.now.rst = false := by simp [Inputs.quiet] at h; exact h.1
  have h2 : s.now.sample = none := by simp [Inputs.quiet] at h; exact h.2
  simp [step, event, callerSample, h1, h2]

/-- In a transaction state the block's own part is the state's transport request. -/
theorem runEvent_txn {s : State} (h : s.fsm.inTxn = true) : runEvent s = .next (transactionBeat s) := by
  have key : (s.fsm = .rHdr ∨ s.fsm = .wHdr) → runEvent s = .next (transactionBeat s) := by
    intro hf
    have hw : fetchWord s = some (.request s.hdr) := by rcases hf with e | e <;> simp [fetchWord, e]
    have hb : background s = transactionBeat s := by rcases hf with e | e <;> simp [background, e]
    have hr : s.fsm ≠ .rsp := by rcases hf with e | e <;> simp [e]
    unfold runEvent fetched
    rw [hw]
    cases hd : decodeRequest s.hdr with
    | error e => simp [decode, hd, hb]
    | ok i => simp [decode, hd, exec_of_decodeRequest hd, headerBeat_eq hf, afterExec, hr]
  cases hf : s.fsm <;>
    first
    | exact key (.inl hf)
    | exact key (.inr hf)
    | (simp [hf, Fsm.inTxn, Fsm.inRead, Fsm.inWrite] at h; done)
    | simp [runEvent, fetched, fetchWord, background, hf]

/-- A predicate's read in the response beat of a transaction gives a value. -/
theorem exec_predicate {s : State} {i : Instr} (ho : s.txnOffered = true)
    (hi : i = .isAck ∨ i = .isWait ∨ i = .isFault ∨ i = .isInvalid) :
    ∃ x, exec i s = .next (addSamples [x] s) := by
  have hb : ∃ d, rspPort s = some { op := s.op, err := s.err, body := .txn s.respStatus d } := by
    simp [State.txnOffered] at ho
    obtain ⟨⟨⟨h1, h2⟩, h3⟩, h4⟩ := ho
    simp [rspPort, State.rspValid, rspBody, h1, h2, h3, h4]
  obtain ⟨d, hb⟩ := hb
  have key : ∀ f, portField s f ≠ none → ∃ x, sampleField f s = .next (addSamples [x] s) := by
    intro f hf
    rcases sampleField_cases f s with ⟨v, _, e⟩ | ⟨e, _⟩
    · exact ⟨_, e⟩
    · exact absurd e hf
  rcases hi with rfl | rfl | rfl | rfl <;> exact key _ (by simp [portField, hb, RspBeat.field])

/-- What the block's own part of an event can be. -/
theorem runEvent_cases {s t : State} (h : runEvent s = .next t) :
    (s.fsm = .idle ∧ s.now.cmdValid = false ∧ t = s) ∨
    (s.fsm = .idle ∧ s.now.cmdValid = true ∧ t = illegalCommand s.now.cmdWord s ∧
      ∃ e, decodeCW s.now.cmdWord = .error e) ∨
    (∃ i, s.fsm = .idle ∧ s.now.cmdValid = true ∧ decodeCW s.now.cmdWord = .ok i ∧ exec i s = .next t) ∨
    (s.fsm.inTxn = true ∧ t = transactionBeat s) ∨
    ((s.fsm = .rsp ∨ s.fsm = .pkOut) ∧ s.now.rspReady = false ∧ t = s) ∨
    (s.fsm = .rsp ∧ s.now.rspReady = true ∧ ∃ l, t = takeBeat (addSamples l s)) ∨
    (s.fsm = .pkOut ∧ s.now.rspReady = true ∧ t = packBeat s) := by
  by_cases hx : s.fsm.inTxn = true
  · rw [runEvent_txn hx] at h
    cases h
    exact .inr (.inr (.inr (.inl ⟨hx, rfl⟩)))
  have hf : s.fsm = .idle ∨ s.fsm = .rsp ∨ s.fsm = .pkOut := by
    cases he : s.fsm <;> simp [he, Fsm.inTxn, Fsm.inRead, Fsm.inWrite] at hx <;> simp
  rcases hf with hf | hf | hf
  · cases hv : s.now.cmdValid with
    | false =>
      simp [runEvent, fetched, fetchWord, background, hf, hv] at h
      exact .inl ⟨hf, rfl, h.symm⟩
    | true =>
      cases hd : decodeCW s.now.cmdWord with
      | error e =>
        simp [runEvent, fetched, fetchWord, decode, background, hf, hv, hd] at h
        exact .inr (.inl ⟨hf, rfl, h.symm, e, rfl⟩)
      | ok i =>
        simp only [runEvent, fetched, fetchWord, decode, hf, hv, hd, if_true] at h
        obtain ⟨u, hu, h⟩ := andThen_eq_next h
        simp [afterExec] at h
        exact .inr (.inr (.inl ⟨i, hf, rfl, rfl, h ▸ hu⟩))
  · cases hr : s.now.rspReady with
    | false =>
      simp [runEvent, fetched, fetchWord, background, hf, hr] at h
      exact .inr (.inr (.inr (.inr (.inl ⟨.inl hf, rfl, h.symm⟩))))
    | true =>
      refine .inr (.inr (.inr (.inr (.inr (.inl ⟨hf, rfl, ?_⟩)))))
      cases ho : s.txnOffered with
      | false =>
        simp [runEvent, fetched, fetchWord, background, hf, hr, ho] at h
        exact ⟨[], by simp [h]⟩
      | true =>
        cases hd : decodeStatus s.respStatus with
        | error e =>
          simp [runEvent, fetched, fetchWord, decode, background, hf, hr, ho, hd] at h
          exact ⟨[], by simp [h]⟩
        | ok i =>
          obtain ⟨x, hx⟩ := exec_predicate ho (decodeStatus_cases hd)
          simp [runEvent, fetched, fetchWord, decode, hf, hr, ho, hd, hx, afterExec] at h
          exact ⟨[x], h.symm⟩
  · cases hr : s.now.rspReady with
    | false =>
      simp [runEvent, fetched, fetchWord, background, hf, hr] at h
      exact .inr (.inr (.inr (.inr (.inl ⟨.inr hf, rfl, h.symm⟩))))
    | true =>
      simp [runEvent, fetched, fetchWord, background, hf, hr] at h
      exact .inr (.inr (.inr (.inr (.inr (.inr ⟨hf, rfl, h.symm⟩)))))

/-- A pack length that is given is at least 1 and fits the PACK registers (R36). -/
theorem packLength_bounds {v : Opnd} {bp : Bool} {b : Opnd} {n : Nat}
    (h : packLength (sintOpnd v) (bitsOperand bp b) = some n) : 1 ≤ n ∧ n ≤ 2 ^ 60 := by
  have hs : ∀ (fuel k : Nat), 1 ≤ k → 1 ≤ leastBytes (sintOpnd v).toNat fuel k ∧
      leastBytes (sintOpnd v).toNat fuel k ≤ k + fuel := by
    intro fuel
    induction fuel with
    | zero => intro k hk; simp [leastBytes, hk]
    | succ fuel ih =>
      intro k hk
      unfold leastBytes
      split
      · omega
      · have := ih (k + 1) (by omega); omega
  unfold packLength at h
  split at h
  · cases h
  · split at h
    · unfold packSize at h
      split at h
      · cases h
      · split at h
        · cases h; omega
        · cases h
          have := hs (Config.opndW / 8) 1 (by omega)
          simp [Config.opndW] at this ⊢
          omega
    · next x hb =>
      split at h
      · cases h
      · cases h
        have hx : x ≤ 2 ^ 63 - 1 := by
          unfold bitsOperand at hb
          split at hb
          · cases hb
            have := BitVec.toInt_lt (x := b)
            simp [sintOpnd, Config.opndW] at this ⊢
            omega
          · cases hb
        omega

/-- What a command that completes in IDLE does. -/
theorem command_cases {s t : State} {w : BitVec 16} {i : Instr} (hf : s.fsm = .idle)
    (hd : decodeCW w = .ok i) (hx : exec i s = .next t) :
    (∃ a p d, t = startTxn a p d s) ∨
    (∃ o, o ∈ [0x4#4, 0x5#4, 0x6#4] ∧ t = raise .invalidArgument none { s with op := o }) ∨
    (∃ o h d b z, o ∈ [0x1#4, 0x2#4, 0x4#4, 0x5#4] ∧
      t = emit { s with op := o, resHdr := h, resDec := d, resBit := b, resSize := z, err := .none }) ∨
    (∃ n, 1 ≤ n ∧ n ≤ 2 ^ 60 ∧
      t = { s with
        op := 0x6, pkVal := s.now.cmdVal, pkLen := BitVec.ofNat Config.opndW n, pkIdx := 0
        err := .none, fsm := .pkOut }) := by
  obtain ⟨-, hi⟩ := decodeCW_cases hd
  rcases hi with ⟨a, p, d, rfl⟩ | rfl | ⟨a, p, rfl⟩ | ⟨a, p, rfl⟩ | rfl | rfl | ⟨bp, rfl⟩
  · rw [exec, execBuildHeader, atCommandBeat_idle _ hf] at hx
    cases hx
    exact .inr (.inr (.inl ⟨0x1, _, s.resDec, s.resBit, s.resSize, by simp, rfl⟩))
  · rw [exec, execDecodeHeader, atCommandBeat_idle _ hf] at hx
    cases hx
    exact .inr (.inr (.inl ⟨0x2, s.resHdr, _, s.resBit, s.resSize, by simp, rfl⟩))
  · rw [exec, execRead, atCommandBeat_idle _ hf] at hx
    cases hx
    exact .inl ⟨_, _, _, rfl⟩
  · rw [exec, execWrite, atCommandBeat_idle _ hf] at hx
    cases hx
    exact .inl ⟨_, _, _, rfl⟩
  · rw [exec, execParity, atCommandBeat_idle _ hf] at hx
    simp only at hx
    split at hx
    · cases hx; exact .inr (.inl ⟨0x4, by simp, rfl⟩)
    · cases hx; exact .inr (.inr (.inl ⟨0x4, s.resHdr, s.resDec, _, s.resSize, by simp, rfl⟩))
  · rw [exec, execPackSize, atCommandBeat_idle _ hf] at hx
    simp only at hx
    split at hx
    · cases hx; exact .inr (.inl ⟨0x5, by simp, rfl⟩)
    · cases hx; exact .inr (.inr (.inl ⟨0x5, s.resHdr, s.resDec, s.resBit, _, by simp, rfl⟩))
  · rw [exec, execPack, atCommandBeat_idle _ hf] at hx
    simp only at hx
    split at hx
    · cases hx; exact .inr (.inl ⟨0x6, by simp, rfl⟩)
    · next n hn =>
      split at hx
      · cases hx
      · cases hx
        have hb := packLength_bounds hn
        exact .inr (.inr (.inr ⟨n, hb.1, hb.2, rfl⟩))

/-- What one event of a transaction state does. -/
theorem transactionBeat_cases {s : State} (h : s.fsm.inTxn = true) :
    ∃ r, stateRequest s = some r ∧
    ((s.tpTaken = false ∧ s.now.tpReqReady = false ∧ transactionBeat s = s) ∨
    (s.tpTaken = false ∧ s.now.tpReqReady = true ∧
      transactionBeat s = logTp (.request r) { s with tpTaken := true }) ∨
    (s.tpTaken = true ∧ s.now.answer = none ∧ transactionBeat s = s) ∨
    (∃ a, s.tpTaken = true ∧ s.now.answer = some a ∧ a.err = true ∧
      transactionBeat s = abort a.errCode (logTp (.failed a.errCode) { s with tpTaken := false })) ∨
    (∃ a, s.tpTaken = true ∧ s.now.answer = some a ∧ a.err = false ∧
      transactionBeat s = advance a (logTp (answerEvent r a) { s with tpTaken := false }))) := by
  have hr : ∃ r, stateRequest s = some r := by
    cases hf : s.fsm <;> simp [hf, Fsm.inTxn, Fsm.inRead, Fsm.inWrite] at h <;> simp [stateRequest, hf]
  obtain ⟨r, hr⟩ := hr
  refine ⟨r, hr, ?_⟩
  have := transportBeat_cases r advance s
  simpa only [transactionBeat, hr] using this

/-- What an answered request of a transaction state leads to: the next state of the table, or a response. -/
theorem advance_cases (a : TpAnswer) {s : State} (h : s.fsm.inTxn = true) :
    (∃ f ao ar rd, f ∈ successors s.fsm ∧ f.inTxn = true ∧ f.inRead = s.fsm.inRead ∧
      (f = .rPar → ar = 0b001#3) ∧
      advance a s = { s with fsm := f, ackOff := ao, ackRaw := ar, rdata := rd }) ∨
    (s.fsm = .rData ∧ s.ackRaw ≠ 0b001#3 ∧
      advance a s = complete (ackStatus s.ackRaw) (some a.value) { s with rdata := a.value }) ∨
    (s.fsm = .rPar ∧ advance a s = complete (parityStatus (parity32 s.rdata) (readBits 1 a)) (some s.rdata)
      { s with pbit := readBits 1 a }) ∨
    (s.fsm = .wStat ∧ advance a s = complete (ackStatus (ackCode a)) none { s with ackRaw := ackCode a }) := by
  obtain ⟨f, hf⟩ : ∃ f, s.fsm = f := ⟨_, rfl⟩
  cases f
  case rData =>
    have e : advance a s = afterData (readBits 32 a) s := by simp only [advance, hf]
    have e2 : readBits 32 a = a.value := by simp [readBits]
    rw [e, e2]
    unfold afterData
    split
    · next hk => exact .inl ⟨.rPar, s.ackOff, s.ackRaw, a.value, by simp [hf, successors], rfl, by simp [hf, Fsm.inRead], fun _ => hk, rfl⟩
    · next hk => exact .inr (.inl ⟨hf, hk, rfl⟩)
  case rPar => exact .inr (.inr (.inl ⟨hf, by simp only [advance, hf]; rfl⟩))
  case wStat => exact .inr (.inr (.inr ⟨hf, by simp only [advance, hf]⟩))
  case idle => simp [hf, Fsm.inTxn, Fsm.inRead, Fsm.inWrite] at h
  case rsp => simp [hf, Fsm.inTxn, Fsm.inRead, Fsm.inWrite] at h
  case pkOut => simp [hf, Fsm.inTxn, Fsm.inRead, Fsm.inWrite] at h
  case rHdr => exact .inl ⟨.rAck, s.ackOff, s.ackRaw, s.rdata, by simp [hf, successors], rfl, by simp [hf, Fsm.inRead], by simp, by simp only [advance, hf]⟩
  case rAck => exact .inl ⟨.rWin, a.offset, s.ackRaw, s.rdata, by simp [hf, successors], rfl, by simp [hf, Fsm.inRead], by simp, by simp only [advance, hf]⟩
  case rWin => exact .inl ⟨.rTrl, s.ackOff, s.ackRaw, s.rdata, by simp [hf, successors], rfl, by simp [hf, Fsm.inRead], by simp, by simp only [advance, hf]⟩
  case rTrl => exact .inl ⟨.rStat, s.ackOff, s.ackRaw, s.rdata, by simp [hf, successors], rfl, by simp [hf, Fsm.inRead], by simp, by simp only [advance, hf]⟩
  case rStat => exact .inl ⟨.rData, s.ackOff, ackCode a, s.rdata, by simp [hf, successors], rfl, by simp [hf, Fsm.inRead], by simp, by simp only [advance, hf]⟩
  case wHdr => exact .inl ⟨.wAck, s.ackOff, s.ackRaw, s.rdata, by simp [hf, successors], rfl, by simp [hf, Fsm.inRead], by simp, by simp only [advance, hf]⟩
  case wAck => exact .inl ⟨.wTrn, a.offset, s.ackRaw, s.rdata, by simp [hf, successors], rfl, by simp [hf, Fsm.inRead], by simp, by simp only [advance, hf]⟩
  case wTrn => exact .inl ⟨.wData, s.ackOff, s.ackRaw, s.rdata, by simp [hf, successors], rfl, by simp [hf, Fsm.inRead], by simp, by simp only [advance, hf]⟩
  case wData => exact .inl ⟨.wPar, s.ackOff, s.ackRaw, s.rdata, by simp [hf, successors], rfl, by simp [hf, Fsm.inRead], by simp, by simp only [advance, hf]⟩
  case wPar => exact .inl ⟨.wStat, s.ackOff, s.ackRaw, s.rdata, by simp [hf, successors], rfl, by simp [hf, Fsm.inRead], by simp, by simp only [advance, hf]⟩

end Sys2Proof.Machine
end

