-- ==== Sys2Proof/Laws/Run.lean ====
section
/-!
SUPPORT. Runs through a transaction: waits, one request and its answer, one exchange.
-/

open Sys2Proof

namespace Sys2Proof.Machine

/-- A run of m + n steps is a run of n steps after one of m. -/
theorem run_append (m n : Nat) : ∀ (s t : State), Host.Core.run core m s = .next t → Host.Core.run core (m+n) s = Host.Core.run core n t := by
  induction m with
  | zero => intro s t h; cases h; simp
  | succ m ih =>
    intro s t h
    rw [show m + 1 + n = (m + n) + 1 by omega]
    simp only [Host.Core.run] at h ⊢
    split at h
    · next s' hs => exact ih s' t h
    · cases h
    · cases h

/-- The first step of a run. -/
theorem run_step {s t : State} (n : Nat) (h : step s = .next t) : Host.Core.run core (n+1) s = Host.Core.run core n t := by
  have : core.step s = .next t := h
  simp only [Host.Core.run, this]

/-- A quiet event in a transaction state is one beat of its transport request. -/
theorem step_txn {s : State} (hf : s.fsm.inTxn = true) (hq : s.now.quiet = true) : step s = .next (transactionBeat (noteLine s)).consume := by
  rw [step_quiet hq, runEvent_txn (by simpa using hf)]; rfl

/-- A list of quiet events that bring a transaction state nothing it waits for. -/
theorem run_waits (es : List Inputs) : ∀ (s : State) (rest : List Inputs), s.fsm.inTxn = true → s.inputs = es ++ rest →
    (∀ e ∈ es, e.quiet = true ∧ (s.tpTaken = false ∧ e.tpReqReady = false ∨ s.tpTaken = true ∧ e.answer = none)) →
    ∃ b, Host.Core.run core es.length s = .next { s with inputs := rest, lineFramed := b } := by
  induction es with
  | nil => intro s rest _ hi _; exact ⟨s.lineFramed, by simp [Host.Core.run]; rw [← show s.inputs = rest from hi]⟩
  | cons e es ih =>
    intro s rest hf hi he
    have hn : s.now = e := by simp [State.now, hi]
    obtain ⟨hq, hw⟩ := he e (by simp)
    obtain ⟨r, hr, -⟩ := transactionBeat_cases hf
    have hr' : stateRequest (noteLine s) = some r := hr
    have hb : transactionBeat (noteLine s) = noteLine s := by
      simp only [transactionBeat, hr', transportBeat]
      rw [← hn] at hw
      rcases hw with ⟨h1, h2⟩ | ⟨h1, h2⟩ <;> simp [h1, h2]
    have hs : step s = .next (noteLine s).consume := by rw [step_txn hf (by rw [hn]; exact hq), hb]
    obtain ⟨b, h⟩ := ih (noteLine s).consume rest (by simpa using hf) (by simp [hi]) (fun e' h' => by simpa using he e' (by simp [h']))
    refine ⟨b, ?_⟩
    exact (run_step _ hs).trans (h.trans rfl)

/-- An answered request does not look at the events to come. -/
theorem advance_inputs (a : TpAnswer) (s : State) (l : List Inputs) : { advance a s with inputs := l } = advance a { s with inputs := l } := by
  obtain ⟨f, hf⟩ : ∃ f, s.fsm = f := ⟨_, rfl⟩
  unfold advance
  simp only [hf]
  cases f <;> simp only [afterData, afterParity, complete, emit]
  case rData => split <;> rfl
  all_goals simp [hf]

/-- The transport takes the request on offer. -/
theorem step_take {s : State} {r e rest} (hf : s.fsm.inTxn = true) (ht : s.tpTaken = false) (hr : stateRequest s = some r)
    (hi : s.inputs = e :: rest) (hq : e.quiet = true) (hy : e.tpReqReady = true) :
    ∃ b, step s = .next { s with tpLog := s.tpLog ++ [.request r], tpTaken := true, inputs := rest, lineFramed := b } := by
  have hn : s.now = e := by simp [State.now, hi]
  have hr' : stateRequest (noteLine s) = some r := hr
  refine ⟨(noteLine s).lineFramed, ?_⟩
  rw [step_txn hf (by rw [hn]; exact hq)]
  simp only [transactionBeat, hr', transportBeat, noteLine_tpTaken, ht, now_noteLine, hn, hy, if_true]
  simp [State.consume, logTp, noteLine, hi]

/-- The transport answers the request it has taken. -/
theorem step_reply {s : State} {r e a rest} (hf : s.fsm.inTxn = true) (ht : s.tpTaken = true) (hr : stateRequest s = some r)
    (hi : s.inputs = e :: rest) (hq : e.quiet = true) (hy : e.answer = some a) :
    ∃ b, step s = .next (
      let u : State := { s with tpLog := s.tpLog ++ [answerEvent r a], tpTaken := false, inputs := rest, lineFramed := b }
      if a.err then abort a.errCode u else advance a u) := by
  have hn : s.now = e := by simp [State.now, hi]
  have hr' : stateRequest (noteLine s) = some r := hr
  refine ⟨(noteLine s).lineFramed, ?_⟩
  rw [step_txn hf (by rw [hn]; exact hq)]
  simp only [transactionBeat, hr', transportBeat, noteLine_tpTaken, ht, now_noteLine, hn, hy, if_true]
  congr 1
  split
  · simp [State.consume, abort, raise, emit, logTp, noteLine, hi]
  · rw [State.consume]
    have : (advance a (logTp (answerEvent r a) { noteLine s with tpTaken := false })).inputs = e :: rest := by
      have h := congrArg State.inputs (advance_inputs a (logTp (answerEvent r a) { noteLine s with tpTaken := false }) (e :: rest))
      have h2 : ({ logTp (answerEvent r a) { noteLine s with tpTaken := false } with inputs := e :: rest } : State) = logTp (answerEvent r a) { noteLine s with tpTaken := false } := by
        simp [logTp, noteLine, hi]
      rw [h2] at h
      exact h.symm
    rw [this, advance_inputs]
    rfl

/-- The events of one exchange do the request of the state, whatever waits lie between. -/
theorem run_exchange {s : State} {r x a rest} (hf : s.fsm.inTxn = true) (ht : s.tpTaken = false) (hr : stateRequest s = some r)
    (hi : s.inputs = Exchange.events x ++ rest) (hd : x.delivers a = true) :
    ∃ b, Host.Core.run core x.events.length s = .next (
      let u : State := { s with tpLog := s.tpLog ++ [.request r, answerEvent r a], tpTaken := false, inputs := rest, lineFramed := b }
      if a.err then abort a.errCode u else advance a u) := by
  simp [Exchange.delivers] at hd
  obtain ⟨⟨⟨⟨⟨hw1, hq1⟩, hr1⟩, hw2⟩, hq2⟩, ha⟩ := hd
  obtain ⟨b1, h1⟩ := run_waits x.waitReady s (x.take :: (x.waitAnswer ++ [x.reply]) ++ rest) hf (by rw [hi]; simp [Exchange.events]) (fun e he => ⟨(hw1 e he).1, .inl ⟨ht, (hw1 e he).2⟩⟩)
  have hlen : x.events.length = x.waitReady.length + (x.waitAnswer.length + 1 + 1) := by simp [Exchange.events]
  rw [hlen, run_append _ _ _ _ h1]
  obtain ⟨b2, h2⟩ := step_take (s := { s with inputs := x.take :: (x.waitAnswer ++ [x.reply]) ++ rest, lineFramed := b1 }) (rest := x.waitAnswer ++ [x.reply] ++ rest) hf ht hr rfl hq1 hr1
  rw [run_step _ h2]
  obtain ⟨b3, h3⟩ := run_waits x.waitAnswer { s with tpLog := s.tpLog ++ [.request r], tpTaken := true, inputs := x.waitAnswer ++ [x.reply] ++ rest, lineFramed := b2 } ([x.reply] ++ rest) hf (by simp) (fun e he => ⟨(hw2 e he).1, .inr ⟨rfl, (hw2 e he).2⟩⟩)
  rw [run_append _ _ _ _ h3]
  obtain ⟨b4, h4⟩ := step_reply (s := { s with tpLog := s.tpLog ++ [.request r], tpTaken := true, inputs := [x.reply] ++ rest, lineFramed := b3 }) hf rfl hr rfl hq2 ha
  refine ⟨b4, ?_⟩
  rw [run_step 0 h4]
  simp only [Host.Core.run, List.append_assoc, List.cons_append, List.nil_append]
  rfl

/-- Exchanges that deliver an answer and more begin with one that delivers the answer. -/
theorem delivered_cons {xs : List Exchange} {a as} (h : delivered xs (a :: as) = true) : ∃ x ys, xs = x :: ys ∧ x.delivers a = true ∧ delivered ys as = true := by
  cases xs with
  | nil => simp [delivered] at h
  | cons x ys => simp [delivered] at h; exact ⟨x, ys, rfl, h.1, h.2⟩

end Sys2Proof.Machine
end

