-- ==== Sys2Proof/Tests/Slice0.lean ====
section
/-!
SUPPORT. Tests of the model and witnesses of the statements' hypotheses. Words are written out from the
encodings of 30_encoding.md; expected results are those of 95_test_vectors.md.
-/

open Sys2Proof Sys2Proof.Machine

namespace Sys2Proof.Tests

/-- The outcome is a next state with the given property. -/
def goesTo (o : Host.Outcome State Fault Refusal) (p : State → Bool) : Bool :=
  match o with
  | .next t => p t
  | .fault _ => false
  | .refused _ => false

/-- The outcome is the given fault. -/
def faultsWith (o : Host.Outcome State Fault Refusal) (r : Fault) : Bool :=
  match o with
  | .next _ => false
  | .fault f => f == r
  | .refused _ => false

/-- The outcome is a refusal of a too long PACK. -/
def refusesPack (o : Host.Outcome State Fault Refusal) : Bool :=
  match o with
  | .next _ => false
  | .fault _ => false
  | .refused r => r == .packTooLong

/-- Reset, with the given events to come. -/
def idleWith (es : List Inputs) : State := { State.reset with inputs := es }

/-- A command beat. -/
def command (w : BitVec 16) : Inputs := { cmdValid := true, cmdWord := w }

/-- The transport is ready for a request. -/
def ready : Inputs := { tpReqReady := true }

/-- A transport answer without error. -/
def answered (offset : Off) (value : BitVec 32) : Inputs :=
  { tpRspValid := true, tpRspOffset := offset, tpRspValue := value }

/-- A transport error. -/
def failing (code : TErr) : Inputs := { tpRspValid := true, tpRspErr := true, tpRspErrCode := code }

/-- The caller takes a beat. -/
def taking : Inputs := { rspReady := true }

/-- A READ of `dp 0` in the given state, with its request taken. -/
def reading (f : Fsm) (es : List Inputs) : State :=
  { State.reset with
    fsm := f, op := 0x3, hdr := 0xA5, ackOff := 8, ackRaw := 1, rdata := 0xDEADBEEF, tpTaken := true, inputs := es }

/-- A WRITE of 0x12345678 to `ap 2` in the given state, with its request taken. -/
def writing (f : Fsm) (es : List Inputs) : State :=
  { State.reset with
    fsm := f, op := 0x3, isWr := true, hdr := 0x93, wdata := 0x12345678, ackOff := 8, tpTaken := true, inputs := es }

/-- The response of a READ with the given status. -/
def responding (st : BitVec 4) (es : List Inputs) : State :=
  { State.reset with
    fsm := .rsp, op := 0x3, ackRaw := if st = 0xF then 1 else st.setWidth 3, rdata := 0xDEADBEEF
    pbit := if st = 0xF then 1 else 0, respStatus := st, respData := 0xDEADBEEF, respHasData := true
    respValid := true, inputs := es }

/-- A PACK of 0x1FF into two bytes, byte i on offer. -/
def packing (i : Opnd) (es : List Inputs) : State :=
  { State.reset with fsm := .pkOut, op := 0x6, pkVal := 0x1FF, pkLen := 2, pkIdx := i, inputs := es }

/-! ### Well-formedness: the parity constraints of rule R68 -/

theorem test_dpRead_0x85_is_ill_formed : (Instr.dpRead false 0).wellFormed = false := by decide
theorem test_dpWrite_0xA1_is_ill_formed : (Instr.dpWrite true 0).wellFormed = false := by decide
theorem test_apRead_0xA7_is_ill_formed : (Instr.apRead true 0).wellFormed = false := by decide
theorem test_apWrite_0x9B_is_ill_formed : (Instr.apWrite false 3).wellFormed = false := by decide
theorem test_headers_are_well_formed :
    ([Instr.dpRead true 0, .dpWrite false 3, .apRead true 2, .apWrite false 2].all Instr.wellFormed) = true := by
  decide

/-! ### Decoding: RSV BP ADDR AP D OP of a command word, park stop P A3 A2 RnW APnDP start of a header -/

theorem test_decode_buildHeader : decode (.cw 0b0000000_0_11_0_1_0001#16) = .ok (.buildHeader 3 false true) := by decide
theorem test_decode_decodeHeader : decode (.cw 0b0000000_1_10_1_1_0010#16) = .ok .decodeHeader := by decide
theorem test_decode_read : decode (.cw 0b0000000_0_10_1_0_0011#16) = .ok (.read 2 true) := by decide
theorem test_decode_write : decode (.cw 0b0000000_1_01_0_1_0011#16) = .ok (.write 1 false) := by decide
theorem test_decode_parity : decode (.cw 0b0000000_0_11_0_0_0100#16) = .ok .parity := by decide
theorem test_decode_packSize : decode (.cw 0b0000000_0_00_1_0_0101#16) = .ok .packSize := by decide
theorem test_decode_pack : decode (.cw 0b0000000_0_00_0_1_0110#16) = .ok (.pack false) := by decide
theorem test_decode_dpRead : decode (.request 0b1_0_0_0_1_1_0_1#8) = .ok (.dpRead false 1) := by decide
theorem test_decode_dpWrite : decode (.request 0b1_0_1_1_0_0_0_1#8) = .ok (.dpWrite true 2) := by decide
theorem test_decode_apRead : decode (.request 0b1_0_0_1_1_1_1_1#8) = .ok (.apRead false 3) := by decide
theorem test_decode_apWrite : decode (.request 0b1_0_1_0_0_0_1_1#8) = .ok (.apWrite true 0) := by decide
theorem test_decode_statuses :
    [0x1#4, 0x2#4, 0x4#4, 0xF#4].map (fun s => decode (.status s)) =
      [.ok .isAck, .ok .isWait, .ok .isFault, .ok .isInvalid] := by decide
theorem test_decode_refuses_reserved_op : decode (.cw 0x0007#16) = .error (.reservedOp 0x7) := by decide
theorem test_decode_refuses_reserved_bits : decode (.cw 0x0203#16) = .error (.reservedBits 1) := by decide
theorem test_decode_refuses_wrong_stop_bit : decode (.request 0xE5#8) = .error (.notRequest 0xE5) := by decide
theorem test_decode_refuses_unnamed_status : decode (.status 0x3#4) = .error (.unnamedStatus 0x3) := by decide

/-- The table words of the three formats. -/
theorem test_table_words :
    [decodeTableWord 16 0x00B3, decodeTableWord 8 0x93, decodeTableWord 8 0xF, decodeTableWord 16 0x0000] =
      [some (.write 2 true), some (.apWrite false 2), some .isInvalid, none] := by decide

/-! ### One step of each instruction -/

theorem test_build_ap_3_wr :
    goesTo (step (idleWith [command 0x00F1]))
      (fun t => t.fsm == .rsp && t.resHdr == 0xBB && t.op == 0x1 && t.inputs == []) = true := by decide
theorem test_build_dp_0_rd :
    goesTo (step (idleWith [command 0x0001])) (fun t => t.resHdr == 0xA5) = true := by decide
theorem test_decode_header_0x93 :
    goesTo (step (idleWith [{ command 0x0002 with cmdHdr := 0x93 }])) (fun t => t.resDec == 0x1E) = true := by decide
theorem test_decode_header_wrong_parity :
    goesTo (step (idleWith [{ command 0x0002 with cmdHdr := 0xB5 }])) (fun t => t.resDec == 0x02) = true := by decide
theorem test_read_starts :
    goesTo (step (idleWith [command 0x0003]))
      (fun t => t.fsm == .rHdr && t.hdr == 0xA5 && !t.isWr && t.tpReqPort == some (.write 0xA5 8 .host)) = true := by
  decide
theorem test_read_parity_mismatch_is_invalid :
    goesTo (step (reading .rPar [answered 0 1]))
      (fun t => t.fsm == .rsp && t.respStatus == 0xF && t.respData == 0xDEADBEEF && t.err == .none) = true := by decide
theorem test_write_starts :
    goesTo (step { idleWith [{ command 0x00B3 with cmdData := 0x12345678 }] with respValid := true })
      (fun t => t.fsm == .wHdr && t.hdr == 0x93 && t.isWr && t.wdata == 0x12345678 && !t.respValid) = true := by decide
theorem test_write_fault_status :
    goesTo (step (writing .wStat [answered 0 0xE4]))
      (fun t => t.fsm == .rsp && t.respStatus == 0x4 && !t.respHasData && t.ackRaw == 4) = true := by decide
theorem test_parity_largest :
    goesTo (step (idleWith [{ command 0x0004 with cmdVal := 0x7FFFFFFFFFFFFFFF }]))
      (fun t => t.resBit == 1 && t.err == .none) = true := by decide
theorem test_parity_negative :
    goesTo (step (idleWith [{ command 0x0004 with cmdVal := 0xFFFFFFFFFFFFFFFF }]))
      (fun t => t.fsm == .rsp && t.err == .invalidArgument) = true := by decide
theorem test_pack_size_0x10000 :
    goesTo (step (idleWith [{ command 0x0005 with cmdVal := 0x10000 }])) (fun t => t.resSize == 3) = true := by decide
theorem test_pack_size_seven_bytes :
    goesTo (step (idleWith [{ command 0x0005 with cmdVal := 0xFFFFFFFFFFFFFF }])) (fun t => t.resSize == 7) = true := by
  decide
theorem test_pack_nine_bits :
    goesTo (step (idleWith [{ command 0x0106 with cmdVal := 0x1234, cmdBits := 9 }]))
      (fun t => t.fsm == .pkOut && t.pkLen == 2 && t.pkIdx == 0 && packByte t.pkVal 1 == 0x12) = true := by decide
theorem test_pack_bits_ignored_without_bp :
    goesTo (step (idleWith [{ command 0x0006 with cmdVal := 5, cmdBits := 0 }]))
      (fun t => t.fsm == .pkOut && t.pkLen == 1) = true := by decide
theorem test_dpRead_header_is_offered :
    goesTo (exec (.dpRead true 0) { reading .rHdr [ready] with tpTaken := false })
      (fun t => t.tpLog == [.request (.write 0xA5 8 .host)] && t.tpTaken) = true := by decide
theorem test_dpWrite_header_is_offered :
    goesTo (exec (.dpWrite true 1) { writing .wHdr [ready] with tpTaken := false })
      (fun t => t.tpLog == [.request (.write 0xA9 8 .host)]) = true := by decide
theorem test_apRead_answered :
    goesTo (exec (.apRead false 3) (reading .rHdr [answered 51 0]))
      (fun t => t.fsm == .rAck && t.tpLog == [.wrote 51] && t.ackOff == 8) = true := by decide
theorem test_apWrite_fails :
    goesTo (exec (.apWrite false 2) (writing .wHdr [failing 0x2A]))
      (fun t => t.fsm == .rsp && t.err == .transportError && t.errCode == 0x2A && !t.respValid) = true := by decide
theorem test_isAck_after_scenario_A :
    goesTo (step (responding 0x1 [taking])) (fun t => t.samples == [(.isAck, 1)] && t.fsm == .idle) = true := by decide
theorem test_isWait_of_ack :
    goesTo (exec .isWait (responding 0x1 [])) (fun t => t.samples == [(.isWait, 0)]) = true := by decide
theorem test_isFault_of_invalid :
    goesTo (exec .isFault (responding 0xF [])) (fun t => t.samples == [(.isFault, 0)]) = true := by decide
theorem test_isInvalid_after_scenario_B :
    goesTo (step (responding 0xF [taking])) (fun t => t.samples == [(.isInvalid, 1)]) = true := by decide
theorem test_isInvalid_in_idle_has_no_value :
    faultsWith (exec .isInvalid State.reset) (.noValue .isInvalid) = true := by decide

/-- The host's placement of a word: the next step runs it. -/
theorem test_fetch_word_runs :
    goesTo (step (State.reset.withFetchWord 16 0x00F1)) (fun t => t.resHdr == 0xBB) = true ∧
    goesTo (step (State.reset.withFetchWord 8 0x87)) (fun t => t.tpLog == [.request (.write 0x87 8 .host)]) = true ∧
    goesTo (step (State.reset.withFetchWord 8 0x2)) (fun t => t.samples == [(.isWait, 1)]) = true := by decide

/-! ### Witnesses: states and operands that meet the hypotheses of each statement -/

/-- One wait for the transport, the request, one wait for the answer, the answer. -/
def exchange (reply : Inputs) : Exchange := { waitReady := [{}], take := ready, waitAnswer := [{}], reply := reply }

/-- Scenario A's exchanges, with the given last two: seven requests. -/
def readExchanges (status data parity : Inputs) : List Exchange :=
  [answered 0 0, answered 8 0, answered 11 0, answered 43 0, status, data, parity].map exchange

/-- Scenario C's exchanges with the given status read. -/
def writeExchanges (status : Inputs) : List Exchange :=
  [answered 0 0, answered 8 0, answered 11 0, answered 13 0, answered 45 0, status].map exchange

/-- The answers of a list of exchanges. -/
def answersOf (xs : List Exchange) : List TpAnswer := xs.filterMap fun x => x.reply.answer

/-- The exchanges deliver their answers, and the sequential function uses all of them and ends as given. -/
def runsTo (r : Option TxnRun) (e : TxnEnd) : Bool :=
  match r with
  | some x => x.ending == e && x.unused.isEmpty
  | none => false

theorem witness_EncodeInvertsDecode :
    decode (.cw 0x01F6) = .ok (.pack true) ∧ decode (.request 0x85) = .ok (.dpRead false 0) ∧
    decode (.status 0xF) = .ok .isInvalid := by decide

theorem witness_DecoderFollowsOpcodeTable :
    decode (.cw 0x01F5) = .ok .packSize ∧ (opcodeRow (.read 3 true)).matchesWord (.cw 0x01E3) = true ∧
    (opcodeRow (.apWrite true 0)).matchesWord (.request 0x9B) = true ∧
    (opcodeRow .isAck).matchesWord (.status 1) = true := by decide

theorem witness_UnusedFieldsIgnored :
    decodeCW 0x0004 = .ok .parity ∧ 0x01F4#16 &&& usedBits .parity = 0x0004#16 &&& usedBits .parity ∧
    State.reset.fsm = .idle ∧
    sameOperands (.pack false) { command 0x0006 with cmdVal := 5 } { command 0x01F6 with cmdVal := 5, cmdBits := 9 } := by
  refine ⟨by decide, by decide, rfl, rfl, ?_⟩
  intro h
  cases h

theorem witness_StepRunsDecodedInstruction :
    (let s := idleWith [command 0x0004]
     s.now.quiet = true ∧ fetchWord s = some (.cw 0x0004) ∧ decode (.cw 0x0004) = .ok .parity) ∧
    (let s := reading .rHdr [ready]
     s.now.quiet = true ∧ fetchWord s = some (.request 0xA5) ∧ decode (.request 0xA5) = .ok (.dpRead true 0)) ∧
    (let s := responding 0x2 [taking]
     s.now.quiet = true ∧ fetchWord s = some (.status 0x2) ∧ decode (.status 0x2) = .ok .isWait) := by decide

theorem witness_WordsComeFromThePorts :
    ((idleWith [command 0x0004]).fsm = .idle ∧ (idleWith [command 0x0004]).now.cmdValid = true) ∧
    (writing .wHdr []).fsm = .wHdr ∧
    ((responding 0xF [taking]).txnOffered = true ∧ (responding 0xF [taking]).now.rspReady = true) ∧
    fetchWord (writing .wHdr []) = some (.request 0x93) := by decide

/-- The two causes: a reserved OP, and RSV ≠ 0 beside a legal OP. -/
theorem witness_IllegalCommandWord :
    (let s := idleWith [command 0x0007]
     s.fsm = .idle ∧ s.now.quiet = true ∧ s.now.cmdValid = true ∧
     s.now.cmdWord.extractLsb' 0 4 ∈ [0x0#4, 0x7#4, 0x8#4, 0x9#4, 0xA#4, 0xB#4, 0xC#4, 0xD#4, 0xE#4, 0xF#4]) ∧
    (let s := idleWith [command 0x0203]
     s.fsm = .idle ∧ s.now.quiet = true ∧ s.now.cmdValid = true ∧ s.now.cmdWord.extractLsb' 9 7 ≠ 0#7) := by decide

theorem witness_BusyBlockIgnoresCommandPort : (packing 0 []).fsm ≠ .idle := by decide

theorem witness_StopsOnlyWhereTheSpecSays :
    faultsWith (step (idleWith [{ sample := some .status }])) (.noValue .status) = true ∧
    refusesPack (step { idleWith [{ command 0x0006 with cmdVal := 0x100 }] with maxPackBytes := some 1 }) = true := by
  decide

theorem witness_HeaderImage :
    encodeHeader 3 true true = encodeHeader 3 true true ∧ (headerFields 0xBB).wf = true := by decide

theorem witness_BuildHeaderCompletes : (idleWith []).fsm = .idle := rfl

theorem witness_DecodeHeaderCompletes : (idleWith [{ cmdHdr := 0xFF }]).fsm = .idle := rfl

theorem witness_TransactionStarts :
    (idleWith [{ cmdData := 5 }]).fsm = .idle ∧
    (let s := reading .rPar [answered 0 1]
     ¬(s.fsm = .idle ∧ s.now.cmdValid = true) ∧ s.now.rst = false ∧ goesTo (step s) (fun _ => true) = true) ∧
    (let s := idleWith []
     ¬(s.fsm = .idle ∧ s.now.cmdValid = true) ∧ s.now.rst = false ∧ goesTo (step s) (fun _ => true) = true) := by
  refine ⟨rfl, by decide, by decide⟩

theorem witness_RequestHeaderIsSent :
    (∀ x ∈ [reading .rHdr [], writing .wHdr []], x.fsm = .rHdr ∨ x.fsm = .wHdr) ∧
    (let s : State := { reading .rHdr [ready] with tpTaken := false }
     s.fsm = .rHdr ∧ s.tpTaken = false ∧ s.now.tpReqReady = true) ∧
    (let s : State := { writing .wHdr [] with tpTaken := false }
     s.fsm = .wHdr ∧ s.tpTaken = false ∧ s.now.tpReqReady = false) ∧
    (let s := reading .rHdr [answered 7 0]
     s.tpTaken = true ∧ s.now.answer = some ⟨false, 0, 7, 0⟩) ∧
    (let s := writing .wHdr [failing 0x2A]
     s.tpTaken = true ∧ s.now.answer = some ⟨true, 0x2A, 0, 0⟩) ∧
    (let s := writing .wHdr []
     s.tpTaken = true ∧ s.now.answer = none) ∧
    (Instr.apWrite true 3, (0x83 : Nat)) ∈ [(Instr.dpRead true 3, 0x85), (.dpWrite true 3, 0x81), (.apRead true 3, 0x87),
      (.apWrite true 3, 0x83)] := by decide

/-- A READ that ends with ACK, one whose parity mismatches, and one whose last request fails. -/
theorem witness_ReadRunsSequentially :
    decodeCW 0x0003 = .ok (.read 0 false) ∧ (command 0x0003).quiet = true ∧ (command 0x0003).cmdValid = true ∧
    (∀ x ∈ [(answered 0 0, TxnEnd.completed 0x1 (some 0xDEADBEEF)), (answered 0 1, .completed 0xF (some 0xDEADBEEF)),
        (failing 0x2A, .aborted 0x2A)],
      let xs := readExchanges (answered 0 0x79) (answered 0 0xDEADBEEF) x.1
      (idleWith (command 0x0003 :: (exchangeEvents xs ++ []))).fsm = .idle ∧
      delivered xs (answersOf xs) = true ∧
      runsTo (seqRead (encodeHeader 0 false false) (answersOf xs)) x.2 = true) := by decide

/-- A READ that ends with WAIT reads no parity: six exchanges. -/
theorem witness_ReadRunsSequentially_wait :
    let xs := (readExchanges (answered 0 0x7A) (answered 0 0xDEADBEEF) {}).take 6
    delivered xs (answersOf xs) = true ∧
    runsTo (seqRead (encodeHeader 0 false false) (answersOf xs)) (.completed 0x2 (some 0xDEADBEEF)) = true := by decide

/-- A WRITE that ends with FAULT, and one whose status read fails. -/
theorem witness_WriteRunsSequentially :
    decodeCW 0x00B3 = .ok (.write 2 true) ∧ (command 0x00B3).quiet = true ∧ (command 0x00B3).cmdValid = true ∧
    (∀ x ∈ [(answered 0 0x04, TxnEnd.completed 0x4 none), (failing 0x2A, .aborted 0x2A)],
      let xs := writeExchanges x.1
      (idleWith (command 0x00B3 :: (exchangeEvents xs ++ []))).fsm = .idle ∧
      delivered xs (answersOf xs) = true ∧
      runsTo (seqWrite (encodeHeader 2 true true) 0x12345678 (answersOf xs)) x.2 = true) := by decide

theorem witness_TransportErrorAborts :
    ∀ s ∈ [reading .rHdr [failing 0x2A, taking], writing .wStat [failing 0x2A, taking]],
      s.fsm.inTxn = true ∧ s.tpTaken = true ∧ s.now.quiet = true ∧ s.now.answer = some ⟨true, 0x2A, 0, 0⟩ ∧
      goesTo (step s) (fun t => t.now.quiet && t.now.rspReady) = true := by decide

/-- The states of `witness_TransportErrorAborts` meet the invariant. -/
theorem witness_TransportErrorAborts_invariant :
    Invariant (reading .rHdr [failing 0x2A, taking]) ∧ Invariant (writing .wStat [failing 0x2A, taking]) := by
  constructor <;> constructor <;> decide

theorem witness_WaitingChangesNothing :
    (let s : State := { reading .rHdr [] with tpTaken := false }
     s.fsm.inTxn = true ∧ s.now.quiet = true ∧ s.tpTaken = false ∧ s.now.tpReqReady = false) ∧
    (let s := writing .wStat []
     s.fsm.inTxn = true ∧ s.now.quiet = true ∧ s.tpTaken = true ∧ s.now.answer = none) := by decide

theorem witness_StrayReadBitsIgnored :
    (stateRequest (reading .rStat []) = some (.read 8 8) ∧
      (0xFFFFFF79#32).setWidth (8#6).toNat = (0x79#32).setWidth (8#6).toNat) ∧
    (stateRequest { reading .rPar [] with ackOff := 0xFFFFFFFE } = some (.read 0x21 1) ∧
      (0xFFFFFFFE#32).setWidth (1#6).toNat = (0#32).setWidth (1#6).toNat) := by decide

theorem witness_OnlyTransactionsUseTheTransport :
    goesTo (step { reading .rHdr [ready] with tpTaken := false }) (fun t => t.tpLog.length == 1) = true := by decide

theorem witness_FsmFollowsItsTables :
    goesTo (step (reading .rPar [{ rst := true }])) (fun t => t.fsm == .idle) = true ∧
    goesTo (step (reading .rAck [answered 8 0])) (fun t => t.fsm == .rWin) = true := by decide

theorem witness_InvalidOnlyFromParityMismatch :
    goesTo (step (reading .rPar [answered 0 1])) (fun t => t.respValid && t.respStatus == 0xF) = true ∧
    goesTo (step (responding 0xF [])) (fun t => t.respValid && t.respStatus == 0xF) = true := by decide

theorem witness_ResponseLifetime :
    (∀ s ∈ [idleWith [command 0x0003], writing .wStat [answered 0 2]],
      s.now.rst = false ∧ goesTo (step s) (fun _ => true) = true) := by decide

theorem witness_PredicatesTestStatus :
    (Instr.isInvalid, RspField.isInvalid, 0xF#4) ∈ [(Instr.isAck, RspField.isAck, 0x1#4), (.isWait, .isWait, 0x2#4),
      (.isFault, .isFault, 0x4#4), (.isInvalid, .isInvalid, 0xF#4)] ∧
    (let s := responding 0xF []
     s.rspValid = true ∧ s.op = 0x3 ∧ s.err = .none ∧ s.respValid = true) ∧
    ¬(State.reset.rspValid = true ∧ State.reset.op = 0x3 ∧ State.reset.err = .none ∧ State.reset.respValid = true) := by
  decide

theorem responding_invariant : Invariant (responding 0xF [{ sample := some .data }]) := by
  constructor <;> decide

theorem witness_DefinedFieldsOfABeat :
    (let s := responding 0xF [{ sample := some .data }]
     Invariant s ∧ s.now.rst = false ∧ s.now.sample = some .data ∧ portField s .data = some 0xDEADBEEF ∧
     .data ∈ definedFields s.op s.err s.isWr ∧ goesTo (step s) (fun _ => true) = true) ∧
    (let s := idleWith [{ sample := some .hdr }]
     Invariant s ∧ s.now.rst = false ∧ s.now.sample = some .hdr ∧ portField s .hdr = none) := by
  refine ⟨⟨responding_invariant, by decide⟩, ?_, by decide⟩
  constructor <;> decide

theorem witness_ResponseBeatIsHeld :
    (let s := responding 0x4 []
     s.fsm = .rsp ∧ s.now.quiet = true ∧ s.now.rspReady = false) ∧
    (let s := responding 0x4 [taking]
     s.fsm = .rsp ∧ s.now.quiet = true ∧ s.now.rspReady = true) ∧
    (let s := packing 0 []
     s.fsm = .pkOut ∧ s.now.quiet = true ∧ s.now.rspReady = false) ∧
    (let s := packing 0 [taking]
     s.fsm = .pkOut ∧ s.now.quiet = true ∧ s.now.rspReady = true ∧ s.pkIdx ≠ s.pkLen - 1) ∧
    (let s := packing 1 [taking]
     s.fsm = .pkOut ∧ s.now.quiet = true ∧ s.now.rspReady = true ∧ s.pkIdx = s.pkLen - 1) := by decide

theorem witness_ResultRegistersKept :
    (idleWith [command 0x0001]).now.rst = false ∧
    goesTo (step (idleWith [command 0x0001])) (fun t => t.resHdr == 0xA5) = true ∧
    (writing .wStat [failing 0x2A]).now.rst = false ∧
    goesTo (step (writing .wStat [failing 0x2A])) (fun t => t.errCode == 0x2A) = true ∧
    goesTo (step (packing 0 [taking])) (fun t => t.pkIdx == 1) = true := by decide

theorem witness_ParityCompletes :
    (let s := idleWith [{ cmdVal := 0x7FFFFFFFFFFFFFFF }]
     s.fsm = .idle ∧ s.now.cmdVal.msb = false) ∧
    (let s := idleWith [{ cmdVal := 0x8000000000000000 }]
     s.fsm = .idle ∧ s.now.cmdVal.msb = true) := by decide

theorem witness_PackSizeCompletes :
    (let s := idleWith [{ cmdVal := 0x7FFFFFFFFFFFFFFF }]
     s.fsm = .idle ∧ s.now.cmdVal.msb = false) ∧
    (let s := idleWith [{ cmdVal := 0xFFFFFFFFFFFFFFFF }]
     s.fsm = .idle ∧ s.now.cmdVal.msb = true) := by decide

/-- 256 takes two bytes and no fewer (R113). -/
theorem least_bytes_256 : IsLeastBytes 256 2 := by
  refine ⟨by decide, by decide, fun j h1 h2 => ?_⟩
  by_contra h
  have : j = 1 := by omega
  subst this
  exact absurd h2 (by decide)

/-- PACK's two error causes. -/
theorem witness_PackStarts_errors :
    (let s := idleWith [{ cmdVal := 1, cmdBits := 0 }]
     s.fsm = .idle ∧ s.now.cmdBits.toInt ≤ 0) ∧
    (let s := idleWith [{ cmdVal := 0xFFFFFFFFFFFFFFFF }]
     s.fsm = .idle ∧ s.now.cmdVal.msb = true) := by decide

/-- The two ends of the BITS range that gives two bytes. -/
theorem witness_PackStarts_bits :
    (let s := idleWith [{ cmdVal := 1, cmdBits := 9 }]
     s.fsm = .idle ∧ s.now.cmdVal.msb = false ∧ (8 * (2 : Nat) : Int) - 8 < s.now.cmdBits.toInt) ∧
    (let s := idleWith [{ cmdVal := 1, cmdBits := 16 }]
     s.now.cmdVal.msb = false ∧ 0 < s.now.cmdBits.toInt ∧ s.now.cmdBits.toInt ≤ (8 * (2 : Nat) : Int)) := by decide

/-- The least value that takes two bytes, and both sides of the limit. -/
theorem witness_PackStarts_least :
    (let s := idleWith [{ cmdVal := 256 }]
     s.fsm = .idle ∧ s.now.cmdVal.msb = false ∧ s.now.cmdVal.toNat = 256) ∧
    IsLeastBytes 256 2 ∧ exceeds (some 1) 2 = true ∧ exceeds State.reset.maxPackBytes 2 = false :=
  ⟨by decide, least_bytes_256, rfl, rfl⟩

theorem witness_PackStreamsLittleEndianBytes :
    let es : List Inputs := [{}, taking, {}]
    let s := packing 0 (es ++ taking :: [])
    s.fsm = .pkOut ∧ s.op = 0x6 ∧ s.err = .none ∧ s.pkIdx = 0 ∧ s.inputs = es ++ taking :: [] ∧
    (∀ x ∈ es, x.quiet = true) ∧ taking.quiet = true ∧ taking.rspReady = true ∧
    es.countP (fun x => x.rspReady) + 1 = s.pkLen.toNat := by decide

theorem witness_InvalidArgumentCauses :
    goesTo (exec (.pack true) (idleWith [{ cmdVal := 1, cmdBits := 0 }])) (fun t => t.err == .invalidArgument) = true ∧
    goesTo (exec (.pack true) (idleWith [{ cmdVal := 1, cmdBits := 1 }])) (fun t => t.fsm == .pkOut) = true := by decide

theorem witness_ResetFromAnyState : (writing .wData [{ rst := true }]).now.rst = true := rfl

/-- Gaining the premise, and each of the three ways to lose it. -/
theorem witness_FramingPremise :
    goesTo (step (idleWith [{ lineReset := true }])) (fun t => t.lineFramed) = true ∧
    (let s : State := { writing .wData [{ rst := true }] with lineFramed := true }
     s.now.rst = true ∧ s.fsm.inTxn = true ∧ goesTo (step s) (fun _ => true) = true) ∧
    (let s : State := { writing .wData [{ foreignUse := true }] with lineFramed := true }
     s.usesTransport = true ∧ s.now.foreignUse = true ∧ goesTo (step s) (fun _ => true) = true) ∧
    (let s : State := { writing .wData [failing 1] with lineFramed := true }
     s.fsm.inTxn = true ∧ s.now.rst = false ∧
     goesTo (step s) (fun t => t.err == .transportError && t.fsm == .rsp) = true) := by decide

theorem witness_StepKeepsInvariant :
    Invariant (responding 0xF [{ sample := some .data }]) ∧
    goesTo (step (responding 0xF [{ sample := some .data }])) (fun _ => true) = true :=
  ⟨responding_invariant, by decide⟩

/-- A parity read that mismatches, and the last step of a WRITE, lead to a valid status. -/
theorem witness_StatusIsLegal :
    Invariant (reading .rPar [answered 0 1]) ∧
    goesTo (step (reading .rPar [answered 0 1])) (fun t => t.respValid && t.respStatus == 0xF) = true ∧
    Invariant (writing .wStat [answered 0 0xE2]) ∧
    goesTo (step (writing .wStat [answered 0 0xE2])) (fun t => t.respValid && t.respStatus == 0x2) = true := by
  refine ⟨?_, by decide, ?_, by decide⟩ <;> constructor <;> decide

theorem witness_BeatsOnlyWhenTaken :
    goesTo (step (responding 0x1 [taking])) (fun t => t.rspLog.length == 1) = true := by decide

/-- A READ's data, a PACK's last byte, and the code of an aborted transaction. -/
theorem witness_ResponseFieldValues :
    (let s := responding 0x1 []
     Invariant s ∧ s.fsm = .rsp ∧ .data ∈ definedFields s.op s.err s.isWr) ∧
    (let s := packing 1 []
     Invariant s ∧ s.fsm = .pkOut ∧ .byte ∈ definedFields s.op s.err s.isWr ∧ .last ∈ definedFields s.op s.err s.isWr) ∧
    (let s : State := { State.reset with fsm := .rsp, op := 0x3, err := .transportError, errCode := 0x2A }
     Invariant s ∧ s.fsm = .rsp ∧ .errCode ∈ definedFields s.op s.err s.isWr) := by
  refine ⟨⟨?_, by decide⟩, ⟨?_, by decide⟩, ?_, by decide⟩ <;> constructor <;> decide

/-- What a caller reads: the second byte of 0x1FF, its last mark (R117), and ILLEGAL_COMMAND's code (R119). -/
theorem test_response_fields :
    portField (packing 1 []) .byte = some 1 ∧ portField (packing 1 []) .last = some 1 ∧
    portField (packing 0 []) .byte = some 0xFF ∧ portField (packing 0 []) .last = some 0 ∧
    portField { State.reset with fsm := .rsp, err := .illegalCommand } .err = some 3 := by decide

theorem witness_IdleWaitsForACommand :
    (idleWith []).fsm = .idle ∧ (idleWith []).now.quiet = true ∧ (idleWith []).now.cmdValid = false := by decide

/-- A WRITE and a READ request on the port, with their kind codes (R22). -/
theorem witness_TransportRequestSignals :
    State.tpReqPort { writing .wTrn [] with tpTaken := false } = some (.write 0 2 .turn) ∧
    tpKindBits (.write 0 2 .turn) = 0 ∧
    State.tpReqPort { reading .rData [] with tpTaken := false } = some (.read 11 32) ∧
    tpKindBits (.read 11 32) = 1 := by decide

end Sys2Proof.Tests
end

section
/-!
PROOFS. One step as a relation: what a command, a transport beat, and the block's own part of an event can do,
one case per kind of beat, and what each of them leaves unchanged.
-/

open Sys2Proof Sys2Proof.Machine

namespace Sys2Proof.Proofs

/-- The state after the command beat of `i`, the stops of a PACK left out (R78, R79, R82, R112, R114, R117). -/
inductive CommandMove (s : State) : Instr → State → Prop
  | header (a p w) : CommandMove s (.buildHeader a p w)
      (emit { s with op := 0x1, resHdr := encodeHeader a p w, err := .none })
  | decoded : CommandMove s .decodeHeader
      (emit { s with op := 0x2, resDec := decWord (headerFields s.now.cmdHdr), err := .none })
  | read (a p) : CommandMove s (.read a p) (startTxn a p false s)
  | write (a p) : CommandMove s (.write a p) (startTxn a p true s)
  | parity (b) : CommandMove s .parity (emit { s with op := 0x4, resBit := b, err := .none })
  | size (z) : CommandMove s .packSize (emit { s with op := 0x5, resSize := z, err := .none })
  | pack (bp n) : 1 ≤ n → n ≤ 2 ^ 60 → CommandMove s (.pack bp)
      { s with
        op := 0x6, pkVal := s.now.cmdVal, pkLen := BitVec.ofNat Config.opndW n, pkIdx := 0
        err := .none, fsm := .pkOut }
  | badArgument (i o) : o ∈ [0x4#4, 0x5#4, 0x6#4] →
      CommandMove s i (raise .invalidArgument none { s with op := o })

/-- The state after a request is taken or answered in a transaction state (R22, R85, R92, R98, R99). -/
inductive TransportMove (s : State) : State → Prop
  | take (r) : s.tpTaken = false → TransportMove s (logTp (.request r) { s with tpTaken := true })
  | fail (a) : s.tpTaken = true → s.now.answer = some a → a.err = true →
      TransportMove s (abort a.errCode (logTp (.failed a.errCode) { s with tpTaken := false }))
  | advance (e f ao ar rd) : f ∈ successors s.fsm → f.inTxn = true → f.inRead = s.fsm.inRead →
      (f = .rPar → ar = 0b001#3) →
      TransportMove s
        { logTp e { s with tpTaken := false } with fsm := f, ackOff := ao, ackRaw := ar, rdata := rd }
  | dataEnd (e d) : s.fsm = .rData → s.ackRaw ≠ 0b001#3 →
      TransportMove s
        (complete (ackStatus s.ackRaw) (some d) { logTp e { s with tpTaken := false } with rdata := d })
  | parityEnd (e b) : s.fsm = .rPar →
      TransportMove s
        (complete (parityStatus (parity32 s.rdata) b) (some s.rdata)
          { logTp e { s with tpTaken := false } with pbit := b })
  | writeEnd (e c) : s.fsm = .wStat →
      TransportMove s (complete (ackStatus c) none { logTp e { s with tpTaken := false } with ackRaw := c })

/-- The state after the block's own part of an event without reset. -/
inductive Move (s : State) : State → Prop
  | wait : Move s s
  | command (i t) : CommandBeat s i → CommandMove s i t → Move s t
  | illegal : s.fsm = .idle → s.now.cmdValid = true → Move s (illegalCommand s.now.cmdWord s)
  | transport (t) : s.fsm.inTxn = true → TransportMove s t → Move s t
  | takeRsp (l) : s.fsm = .rsp → s.now.rspReady = true → Move s (takeBeat (addSamples l s))
  | takeByte : s.fsm = .pkOut → s.now.rspReady = true → Move s (packBeat s)

/-- A command that completes in IDLE makes its own move. -/
theorem commandMove_of_exec {s t : State} {w : BitVec 16} {i : Instr} (hf : s.fsm = .idle)
    (hd : decodeCW w = .ok i) (hx : exec i s = .next t) : CommandMove s i t := by
  obtain ⟨-, hi⟩ := decodeCW_cases hd
  rcases hi with ⟨a, p, d, rfl⟩ | rfl | ⟨a, p, rfl⟩ | ⟨a, p, rfl⟩ | rfl | rfl | ⟨bp, rfl⟩
  · rw [exec, execBuildHeader, atCommandBeat_idle _ hf] at hx
    cases hx; exact .header a p d
  · rw [exec, execDecodeHeader, atCommandBeat_idle _ hf] at hx
    cases hx; exact .decoded
  · rw [exec, execRead, atCommandBeat_idle _ hf] at hx
    cases hx; exact .read a p
  · rw [exec, execWrite, atCommandBeat_idle _ hf] at hx
    cases hx; exact .write a p
  · rw [exec, execParity, atCommandBeat_idle _ hf] at hx
    simp only at hx
    split at hx
    · cases hx; exact .badArgument _ 0x4 (by simp)
    · cases hx; exact .parity _
  · rw [exec, execPackSize, atCommandBeat_idle _ hf] at hx
    simp only at hx
    split at hx
    · cases hx; exact .badArgument _ 0x5 (by simp)
    · cases hx; exact .size _
  · rw [exec, execPack, atCommandBeat_idle _ hf] at hx
    simp only at hx
    split at hx
    · cases hx; exact .badArgument _ 0x6 (by simp)
    · next n hn =>
      obtain ⟨h1, h2⟩ := packLength_bounds hn
      split at hx
      · cases hx
      · cases hx; exact .pack bp n h1 h2

/-- A beat of a transaction state waits or makes a transport move. -/
theorem transportMove_of_inTxn {s : State} (h : s.fsm.inTxn = true) :
    transactionBeat s = s ∨ TransportMove s (transactionBeat s) := by
  obtain ⟨r, -, hb⟩ := transactionBeat_cases h
  rcases hb with ⟨-, -, e⟩ | ⟨ht, -, e⟩ | ⟨-, -, e⟩ | ⟨a, ht, ha, he, e⟩ | ⟨a, -, -, -, e⟩
  · exact .inl e
  · exact .inr (e ▸ .take r ht)
  · exact .inl e
  · exact .inr (e ▸ .fail a ht ha he)
  · right
    rw [e]
    rcases advance_cases a (s := logTp (answerEvent r a) { s with tpTaken := false }) h with
      ⟨f, ao, ar, rd, h1, h2, h3, h4, e⟩ | ⟨h1, h2, e⟩ | ⟨h1, e⟩ | ⟨h1, e⟩
    · exact e ▸ .advance _ f ao ar rd h1 h2 h3 h4
    · exact e ▸ .dataEnd _ _ h1 h2
    · exact e ▸ .parityEnd _ _ h1
    · exact e ▸ .writeEnd _ _ h1

/-- The block's own part of an event without reset is a move. -/
theorem move_of_runEvent {s t : State} (hr : s.now.rst = false) (h : runEvent s = .next t) : Move s t := by
  rcases runEvent_cases h with ⟨-, -, rfl⟩ | ⟨hf, hv, rfl, -⟩ | ⟨i, hf, hv, hd, hx⟩ | ⟨hf, rfl⟩ |
    ⟨-, -, rfl⟩ | ⟨hf, hy, l, rfl⟩ | ⟨hf, hy, rfl⟩
  · exact .wait
  · exact .illegal hf hv
  · exact .command i t ⟨hf, hr, hv, hd⟩ (commandMove_of_exec hf hd hx)
  · rcases transportMove_of_inTxn hf with e | hm
    · exact e.symm ▸ .wait
    · exact .transport _ hf hm
  · exact .wait
  · exact .takeRsp l hf hy
  · exact .takeByte hf hy

/-- A step is a reset, or a move after the record of the caller's acts. -/
theorem step_move_cases {s t : State} (h : step s = .next t) :
    (s.now.rst = true ∧ t = (hardReset (noteLine s)).consume) ∨
    (s.now.rst = false ∧ ∃ l v, Move (addSamples l (noteLine s)) v ∧ t = v.consume) := by
  rcases step_cases h with h | ⟨hr, l, v, hv, e⟩
  · exact .inl h
  · exact .inr ⟨hr, l, v, move_of_runEvent (s := addSamples l (noteLine s)) hr hv, e⟩

/-- A step without reset is a move after the record of the caller's acts. -/
theorem move_of_step {s t : State} (hr : s.now.rst = false) (h : step s = .next t) :
    ∃ l v, Move (addSamples l (noteLine s)) v ∧ t = v.consume := by
  rcases step_move_cases h with ⟨h1, -⟩ | ⟨-, h1⟩
  · rw [hr] at h1; cases h1
  · exact h1

/-- What a command leaves unchanged. -/
theorem CommandMove.frame {s t : State} {i : Instr} (h : CommandMove s i t) :
    t = { s with
      fsm := t.fsm, op := t.op, isWr := t.isWr, hdr := t.hdr, wdata := t.wdata, respValid := t.respValid
      err := t.err, resHdr := t.resHdr, resDec := t.resDec, resBit := t.resBit, resSize := t.resSize
      pkVal := t.pkVal, pkLen := t.pkLen, pkIdx := t.pkIdx, tpTaken := t.tpTaken } := by
  cases h <;> rfl

/-- What a transport beat leaves unchanged. -/
theorem TransportMove.frame {s t : State} (h : TransportMove s t) :
    t = { s with
      fsm := t.fsm, ackOff := t.ackOff, ackRaw := t.ackRaw, rdata := t.rdata, pbit := t.pbit
      respStatus := t.respStatus, respData := t.respData, respHasData := t.respHasData
      respValid := t.respValid, err := t.err, errCode := t.errCode, tpTaken := t.tpTaken, tpLog := t.tpLog
      lineFramed := t.lineFramed, freeCount := t.freeCount } := by
  cases h <;> rfl

/-- The FSM states a command leads to (R82, R117, R21). -/
theorem CommandMove.fsm_mem {s t : State} {i : Instr} (h : CommandMove s i t) :
    t.fsm ∈ successors .idle := by
  cases h <;> simp [successors, startTxn]

/-- The FSM states a transport beat leads to (R85, R92, R99). -/
theorem TransportMove.fsm_mem {s t : State} (hf : s.fsm.inTxn = true) (h : TransportMove s t) :
    t.fsm = s.fsm ∨ t.fsm ∈ successors s.fsm := by
  cases h with
  | take r _ => exact .inl rfl
  | fail a _ _ _ =>
    right
    cases hs : s.fsm <;> simp [hs, Fsm.inTxn, Fsm.inRead, Fsm.inWrite] at hf <;> simp [successors]
  | advance e f ao ar rd hm _ _ _ => exact .inr hm
  | dataEnd e d hs _ => simp [hs, complete, successors]
  | parityEnd e b hs => simp [hs, complete, successors]
  | writeEnd e c hs => simp [hs, complete, successors]

/-- A transport beat is recorded as one event (R52). -/
theorem TransportMove.tpLog_eq {s t : State} (h : TransportMove s t) : ∃ e, t.tpLog = s.tpLog ++ [e] := by
  cases h <;> exact ⟨_, rfl⟩

end Sys2Proof.Proofs
end

section
/-!
PROOFS. What every step keeps: the logs, FSM's tables, the registers of a transaction, of a response and of a
utility, each read off the kinds of beat.
-/

open Sys2Proof Sys2Proof.Machine

namespace Sys2Proof.Proofs

/-- A move writes the transport log only in a transaction state, and then by one event. -/
theorem Move.tpLog_cases {s t : State} (h : Move s t) :
    t.tpLog = s.tpLog ∨ s.fsm.inTxn = true ∧ ∃ e, t.tpLog = s.tpLog ++ [e] := by
  cases h with
  | wait => exact .inl rfl
  | command i t _ hm => left; rw [hm.frame]
  | illegal _ _ => exact .inl rfl
  | transport t hf hm => exact .inr ⟨hf, hm.tpLog_eq⟩
  | takeRsp l _ _ => left; simp
  | takeByte _ _ => left; simp

/-- A move follows the transition tables. -/
theorem Move.fsm_mem {s t : State} (h : Move s t) : t.fsm = s.fsm ∨ t.fsm ∈ successors s.fsm := by
  cases h with
  | wait => exact .inl rfl
  | command i t hb hm => right; rw [hb.1]; exact hm.fsm_mem
  | illegal hf _ => right; simp [hf, illegalCommand, successors]
  | transport t hf hm => exact hm.fsm_mem hf
  | takeRsp l hf _ => right; simp [hf, successors]
  | takeByte hf _ =>
    rw [packBeat_fsm]
    split
    · right; simp [hf, successors]
    · exact .inl rfl

/-- Outside a command beat a move keeps OP, IS_WR, HDR and WDATA. -/
theorem Move.txn_registers {s t : State} (h : Move s t) (hc : ¬(s.fsm = .idle ∧ s.now.cmdValid = true)) :
    t.op = s.op ∧ t.isWr = s.isWr ∧ t.hdr = s.hdr ∧ t.wdata = s.wdata := by
  cases h with
  | wait => simp
  | command i t hb _ =>
    obtain ⟨hf, -, hv, -⟩ := hb
    exact absurd ⟨hf, hv⟩ hc
  | illegal hf hv => exact absurd ⟨hf, hv⟩ hc
  | transport t _ hm => rw [hm.frame]; simp
  | takeRsp l _ _ => simp
  | takeByte _ _ => simp

/-- A response beat is recorded only when it is offered and taken. -/
theorem Move.rspLog_cases {s t : State} (h : Move s t) :
    t.rspLog = s.rspLog ∨
    s.rspValid = true ∧ s.now.rspReady = true ∧ ∃ b, rspPort s = some b ∧ t.rspLog = s.rspLog ++ [b] := by
  cases h with
  | wait => exact .inl rfl
  | command i t _ hm => left; rw [hm.frame]
  | illegal _ _ => exact .inl rfl
  | transport t _ hm => left; rw [hm.frame]
  | takeRsp l hf hr =>
    rcases logBeat_rspLog (addSamples l s) with ⟨-, e⟩ | ⟨b, hb, e⟩
    · left; simpa using e
    · right; exact ⟨by simp [State.rspValid, hf], hr, b, by simpa using hb, by simpa using e⟩
  | takeByte hf hr =>
    rcases logBeat_rspLog s with ⟨-, e⟩ | ⟨b, hb, e⟩
    · left; simpa using e
    · right; exact ⟨by simp [State.rspValid, hf], hr, b, hb, by simpa using e⟩

/-- A command clears RESP_VALID when it starts a transaction, and keeps it otherwise (R34, R82). -/
theorem CommandMove.respValid_cases {s t : State} {i : Instr} (h : CommandMove s i t) :
    t.respValid = s.respValid ∨ (t.fsm = .rHdr ∨ t.fsm = .wHdr) ∧ t.respValid = false := by
  cases h with
  | read a p => simp [startTxn]
  | write a p => simp [startTxn]
  | header a p w => exact .inl rfl
  | decoded => exact .inl rfl
  | parity b => exact .inl rfl
  | size z => exact .inl rfl
  | pack bp n _ _ => exact .inl rfl
  | badArgument _ o _ => exact .inl rfl

/-- A transport beat writes the response registers only where it ends the transaction without error (R98). -/
theorem TransportMove.response_cases {s t : State} (h : TransportMove s t) :
    (t.respStatus = s.respStatus ∧ t.respData = s.respData ∧ t.respHasData = s.respHasData ∧
      t.respValid = s.respValid) ∨
    (s.fsm ∈ [.rData, .rPar, .wStat] ∧ t.fsm = .rsp ∧ t.respValid = true ∧ t.err = .none) := by
  cases h with
  | take r _ => simp
  | fail a _ _ _ => simp
  | advance e f ao ar rd _ _ _ _ => simp
  | dataEnd e d hs _ => simp [hs, complete]
  | parityEnd e b hs => simp [hs, complete]
  | writeEnd e c hs => simp [hs, complete]

/-- The lifetime of the response registers, over one move. -/
theorem Move.response_cases {s t : State} (h : Move s t) :
    (t.respStatus = s.respStatus ∧ t.respData = s.respData ∧ t.respHasData = s.respHasData ∧
      (t.respValid = s.respValid ∨
        s.fsm = .idle ∧ (t.fsm = .rHdr ∨ t.fsm = .wHdr) ∧ t.respValid = false)) ∨
    (s.fsm ∈ [.rData, .rPar, .wStat] ∧ t.fsm = .rsp ∧ t.respValid = true ∧ t.err = .none) := by
  cases h with
  | wait => simp
  | command i t hb hm =>
    have hv := hm.respValid_cases
    rw [hm.frame]
    exact .inl ⟨rfl, rfl, rfl, hv.imp_right fun h => ⟨hb.1, h⟩⟩
  | illegal _ _ => simp [illegalCommand]
  | transport t _ hm =>
    rcases hm.response_cases with ⟨h1, h2, h3, h4⟩ | h
    · exact .inl ⟨h1, h2, h3, .inl h4⟩
    · exact .inr h
  | takeRsp l _ _ => simp
  | takeByte _ _ => simp

/-- ERR_CODE is written only by a failing answer (R34, R99). -/
theorem TransportMove.errCode_cases {s t : State} (h : TransportMove s t) :
    t.errCode = s.errCode ∨ s.tpTaken = true ∧ t.fsm = .rsp ∧ t.err = .transportError ∧
      ∃ a, s.now.answer = some a ∧ a.err = true ∧ t.errCode = a.errCode := by
  cases h with
  | take r _ => exact .inl rfl
  | fail a ht ha he => exact .inr ⟨ht, rfl, rfl, a, ha, he, rfl⟩
  | advance e f ao ar rd _ _ _ _ => exact .inl rfl
  | dataEnd e d _ _ => exact .inl rfl
  | parityEnd e b _ => exact .inl rfl
  | writeEnd e c _ => exact .inl rfl

/-- The result registers a command writes: its own, and only without error (R35, R36, R117). -/
theorem CommandMove.results_cases {s t : State} {i : Instr} (h : CommandMove s i t) :
    (t.resHdr = s.resHdr ∨ t.err = .none ∧ ∃ a p w, i = .buildHeader a p w) ∧
    (t.resDec = s.resDec ∨ t.err = .none ∧ i = .decodeHeader) ∧
    (t.resBit = s.resBit ∨ t.err = .none ∧ i = .parity) ∧
    (t.resSize = s.resSize ∨ t.err = .none ∧ i = .packSize) ∧
    (t.pkVal = s.pkVal ∧ t.pkLen = s.pkLen ∧ t.pkIdx = s.pkIdx ∨ t.err = .none ∧ ∃ bp, i = .pack bp) := by
  cases h with
  | header a p w => simp
  | decoded => simp
  | read a p => simp [startTxn]
  | write a p => simp [startTxn]
  | parity b => simp
  | size z => simp
  | pack bp n _ _ => simp
  | badArgument _ o _ => simp

/-- ERR_CODE over one move. -/
theorem Move.errCode_cases {s t : State} (h : Move s t) :
    t.errCode = s.errCode ∨ s.fsm.inTxn = true ∧ s.tpTaken = true ∧ t.fsm = .rsp ∧ t.err = .transportError ∧
      ∃ a, s.now.answer = some a ∧ a.err = true ∧ t.errCode = a.errCode := by
  cases h with
  | wait => exact .inl rfl
  | command i t _ hm => left; rw [hm.frame]
  | illegal _ _ => exact .inl rfl
  | transport t hf hm => exact hm.errCode_cases.imp_right fun h => ⟨hf, h⟩
  | takeRsp l _ _ => left; simp
  | takeByte _ _ => left; simp

/-- The result registers over one move: they change at the beat of a command, as it says, and PK_IDX when a byte
is taken. -/
theorem Move.results_cases {s t : State} (h : Move s t) :
    (∃ i, CommandBeat s i ∧ CommandMove s i t) ∨
    t.resHdr = s.resHdr ∧ t.resDec = s.resDec ∧ t.resBit = s.resBit ∧ t.resSize = s.resSize ∧
      t.pkVal = s.pkVal ∧ t.pkLen = s.pkLen ∧
      (t.pkIdx = s.pkIdx ∨ s.fsm = .pkOut ∧ s.now.rspReady = true ∧ t.pkIdx = s.pkIdx + 1) := by
  cases h with
  | wait => simp
  | command i t hb hm => exact .inl ⟨i, hb, hm⟩
  | illegal _ _ => simp [illegalCommand]
  | transport t _ hm => right; rw [hm.frame]; simp
  | takeRsp l _ _ => simp
  | takeByte hf hr =>
    right
    rw [packBeat_pkIdx]
    split <;> simp [hf, hr]

/-- Settles O24: only a transport beat writes the transport log. -/
theorem onlyTransactionsUseTheTransport : Obligations.OnlyTransactionsUseTheTransport := by
  intro s t h
  rcases step_move_cases h with ⟨-, rfl⟩ | ⟨hr, l, v, hm, rfl⟩
  · exact .inl rfl
  · rcases hm.tpLog_cases with e | ⟨hf, e⟩
    · exact .inl e
    · exact .inr ⟨hf, hr, e⟩

/-- Settles O25: each kind of beat moves FSM along its table. -/
theorem fsmFollowsItsTables : Obligations.FsmFollowsItsTables := by
  intro s t h
  rcases step_move_cases h with ⟨hr, rfl⟩ | ⟨hr, l, v, hm, rfl⟩
  · rw [if_pos hr]; rfl
  · rw [if_neg (by simp [hr])]
    exact hm.fsm_mem

/-- Settles O27: only a TXN command beat and the last step of a transaction write the response registers. -/
theorem responseLifetime : Obligations.ResponseLifetime := by
  intro s t h hr
  obtain ⟨l, v, hm, rfl⟩ := move_of_step hr h
  exact hm.response_cases

/-- Settles O44: only a taken beat is recorded. -/
theorem beatsOnlyWhenTaken : Obligations.BeatsOnlyWhenTaken := by
  intro s t h
  rcases step_move_cases h with ⟨-, rfl⟩ | ⟨hr, l, v, hm, rfl⟩
  · exact .inl rfl
  · rcases hm.rspLog_cases with e | ⟨h1, h2, h3⟩
    · exact .inl e
    · exact .inr ⟨h1, h2, hr, h3⟩

/-- Settles O32: a failing answer writes ERR_CODE, each command its own result registers, a taken byte PK_IDX. -/
theorem resultRegistersKept : Obligations.ResultRegistersKept := by
  intro s t h hr
  obtain ⟨l, v, hm, rfl⟩ := move_of_step hr h
  refine ⟨hm.errCode_cases, ?_⟩
  rcases hm.results_cases with ⟨i, hb, hc⟩ | ⟨h1, h2, h3, h4, h5, h6, h7⟩
  · have hb : CommandBeat s i := hb
    obtain ⟨h1, h2, h3, h4, h5⟩ := hc.results_cases
    refine ⟨h1.imp_right ?_, h2.imp_right ?_, h3.imp_right ?_, h4.imp_right ?_, ?_, ?_⟩
    · rintro ⟨he, a, p, w, rfl⟩; exact ⟨he, a, p, w, hb⟩
    · rintro ⟨he, rfl⟩; exact ⟨he, hb⟩
    · rintro ⟨he, rfl⟩; exact ⟨he, hb⟩
    · rintro ⟨he, rfl⟩; exact ⟨he, hb⟩
    · rcases h5 with ⟨h5, h6, -⟩ | ⟨he, bp, rfl⟩
      · exact .inl ⟨h5, h6⟩
      · exact .inr ⟨he, bp, hb⟩
    · rcases h5 with ⟨-, -, h7⟩ | ⟨he, bp, rfl⟩
      · exact .inl h7
      · exact .inr (.inl ⟨he, bp, hb⟩)
  · exact ⟨.inl h1, .inl h2, .inl h3, .inl h4, .inl ⟨h5, h6⟩, h7.imp_right .inr⟩

/-- The header a transaction starts with is the number of rule R76. -/
theorem encodeHeader_eq_headerNumber (a : BitVec 2) (p w : Bool) :
    encodeHeader a p w = BitVec.ofNat 8 (headerNumber a p w) := by
  revert a p w; decide

/-- Settles O16: READ and WRITE start with `startTxn`, and only a command beat writes its registers. -/
theorem transactionStarts : Obligations.TransactionStarts := by
  refine ⟨fun s a p hf => ?_, fun s a p hf => ?_, fun s t hc hr h => ?_⟩
  · rw [exec, execRead, atCommandBeat_idle _ hf]
    simp [startTxn, encodeHeader_eq_headerNumber]
  · rw [exec, execWrite, atCommandBeat_idle _ hf]
    simp [startTxn, encodeHeader_eq_headerNumber]
  · obtain ⟨l, v, hm, rfl⟩ := move_of_step hr h
    exact hm.txn_registers hc

end Sys2Proof.Proofs
end

section
/-!
PROOFS. The machine's invariant: what it asks in each part of FSM, and that every step keeps it.
-/

open Sys2Proof Sys2Proof.Machine

namespace Sys2Proof.Proofs

/-- The clause of the invariant about a valid response (R86, R93, R98). -/
def ResponseReadBack (s : State) : Prop :=
  s.respValid = true →
    s.respHasData = !s.isWr ∧ s.respStatus = statusRule s.respHasData s.ackRaw s.rdata s.pbit ∧
    (s.respHasData = true → s.respData = s.rdata)

/-- In IDLE the invariant asks for no outstanding request and a response that was read back. -/
theorem invariant_of_idle {s : State} (hf : s.fsm = .idle) (ht : s.tpTaken = false) (hr : ResponseReadBack s) :
    Invariant s := by
  constructor
  case response => exact hr
  all_goals simp [hf, ht, Fsm.inTxn, Fsm.inRead, Fsm.inWrite]

/-- In RSP the invariant asks besides for the OP that goes with each error kind. -/
theorem invariant_of_rsp {s : State} (hf : s.fsm = .rsp) (ht : s.tpTaken = false) (hr : ResponseReadBack s)
    (h0 : s.err = .none → s.op ∈ [0x1#4, 0x2#4, 0x3#4, 0x4#4, 0x5#4] ∧ (s.op = 0x3#4 → s.respValid = true))
    (h1 : s.err = .transportError → s.op = 0x3#4 ∧ s.respValid = false)
    (h2 : s.err = .invalidArgument → s.op ∈ [0x4#4, 0x5#4, 0x6#4]) : Invariant s := by
  constructor
  case response => exact hr
  case answering => exact fun _ => h0
  case aborted => exact fun _ => h1
  case badArgument => exact fun _ => h2
  all_goals simp [hf, ht, Fsm.inTxn, Fsm.inRead, Fsm.inWrite]

/-- In PK_OUT the invariant asks besides for a byte within the output. -/
theorem invariant_of_pkOut {s : State} (hf : s.fsm = .pkOut) (ht : s.tpTaken = false) (hr : ResponseReadBack s)
    (hp : s.op = 0x6#4 ∧ s.err = .none ∧ s.pkIdx.toNat < s.pkLen.toNat ∧ s.pkLen.toNat ≤ 2 ^ (Config.opndW - 4)) :
    Invariant s := by
  constructor
  case response => exact hr
  case packing => exact fun _ => hp
  all_goals simp [hf, ht, Fsm.inTxn, Fsm.inRead, Fsm.inWrite]

/-- In a transaction state the invariant asks for a running transaction, whose header says its direction, and for
an ACK before the parity read. -/
theorem invariant_of_inTxn {s : State} (hf : s.fsm.inTxn = true) (ho : s.op = 0x3#4) (hv : s.respValid = false)
    (hd : s.isWr = !s.fsm.inRead ∧ (headerFields s.hdr).wf = true ∧ (headerFields s.hdr).isWrite = s.isWr)
    (hp : s.fsm = .rPar → s.ackRaw = 0b001#3) : Invariant s := by
  obtain ⟨hw, hwf, hdir⟩ := hd
  have hn : s.fsm ≠ .rsp ∧ s.fsm ≠ .pkOut := by constructor <;> rintro e <;> rw [e] at hf <;> cases hf
  constructor
  case taken => exact fun _ => hf
  case running => exact fun _ => ⟨ho, hv⟩
  case reading => intro hr; rw [hr] at hw; exact ⟨hw, hwf, hdir.trans hw⟩
  case writing =>
    intro hr
    have hw' : s.isWr = true := by rw [inWrite_eq, hf] at hr; rw [hw]; simpa using hr
    exact ⟨hw', hwf, hdir.trans hw'⟩
  case parityOnAck => exact hp
  case response => simp [hv]
  all_goals simp [hn]

/-- Outside the transaction states no request is outstanding. -/
theorem tpTaken_of_not_inTxn {s : State} (hi : Invariant s) (h : s.fsm.inTxn = false) : s.tpTaken = false := by
  cases ht : s.tpTaken with
  | false => rfl
  | true => rw [hi.taken ht] at h; cases h

/-- In a transaction state the header is well formed and says the direction of the transaction. -/
theorem header_of_inTxn {s : State} (hi : Invariant s) (h : s.fsm.inTxn = true) :
    s.isWr = !s.fsm.inRead ∧ (headerFields s.hdr).wf = true ∧ (headerFields s.hdr).isWrite = s.isWr := by
  cases hr : s.fsm.inRead with
  | true =>
    obtain ⟨h1, h2, h3⟩ := hi.reading hr
    exact ⟨h1, h2, h3.trans h1.symm⟩
  | false =>
    obtain ⟨h1, h2, h3⟩ := hi.writing (by rw [inWrite_eq, h, hr]; rfl)
    exact ⟨h1, h2, h3.trans h1.symm⟩

/-- The invariant looks at registers only, not at what the caller has read or the line premise. -/
theorem invariant_noted {s : State} (hi : Invariant s) (l : List (RspField × Opnd)) :
    Invariant (addSamples l (noteLine s)) := { hi with }

/-- The end of an event touches no register. -/
theorem invariant_consume {s : State} (hi : Invariant s) : Invariant s.consume := { hi with }

/-- The status of a READ without ACK is its acknowledge code. -/
theorem statusRule_of_not_ack {c : BitVec 3} (h : c ≠ 0b001#3) (d : Data) (b : BitVec 1) :
    statusRule true c d b = ackStatus c := by
  simp [statusRule, ackStatus, h]

/-- The status of a READ with ACK is that of its parity check. -/
theorem statusRule_of_ack (d : Data) (b : BitVec 1) :
    statusRule true 0b001#3 d b = parityStatus (parity32 d) b := by
  by_cases h : parity32 d = b <;> simp [statusRule, parityStatus, Config.invalidCode, h]

/-- The status of a WRITE is its acknowledge code. -/
theorem statusRule_write (c : BitVec 3) (d : Data) (b : BitVec 1) : statusRule false c d b = ackStatus c := rfl

/-- A transaction that starts meets the invariant. -/
theorem startTxn_invariant (a : BitVec 2) (p w : Bool) (s : State) : Invariant (startTxn a p w s) := by
  refine invariant_of_inTxn (by cases w <;> rfl) rfl rfl ⟨by cases w <;> rfl, ?_, ?_⟩ (by cases w <;> simp [startTxn])
  · simp [startTxn, headerFields_encodeHeader]
  · simp [startTxn, headerFields_encodeHeader]

/-- Every command keeps the invariant. -/
theorem CommandMove.invariant {s t : State} {i : Instr} (hi : Invariant s) (hf : s.fsm = .idle)
    (h : CommandMove s i t) : Invariant t := by
  have ht : s.tpTaken = false := tpTaken_of_not_inTxn hi (not_inTxn (.inl hf))
  have hr : ResponseReadBack s := hi.response
  cases h with
  | header a p w => exact invariant_of_rsp rfl ht hr (by simp) (by simp) (by simp)
  | decoded => exact invariant_of_rsp rfl ht hr (by simp) (by simp) (by simp)
  | read a p => exact startTxn_invariant a p false s
  | write a p => exact startTxn_invariant a p true s
  | parity b => exact invariant_of_rsp rfl ht hr (by simp) (by simp) (by simp)
  | size z => exact invariant_of_rsp rfl ht hr (by simp) (by simp) (by simp)
  | pack bp n h1 h2 =>
    have hn : (BitVec.ofNat Config.opndW n).toNat = n := Nat.mod_eq_of_lt (by simp only [Config.opndW]; omega)
    refine invariant_of_pkOut rfl ht hr ⟨rfl, rfl, ?_, ?_⟩
    · rw [hn]; exact h1
    · rw [hn]; exact h2
  | badArgument _ o ho => exact invariant_of_rsp rfl ht hr (by simp) (by simp) fun _ => ho

/-- A transaction that ends without error meets the invariant when its response is what it read back. -/
theorem complete_invariant {s : State} {st : BitVec 4} {d : Option Data} (ht : s.tpTaken = false)
    (ho : s.op = 0x3#4) (hd : d.isSome = !s.isWr) (hs : st = statusRule d.isSome s.ackRaw s.rdata s.pbit)
    (hx : ∀ x, d = some x → x = s.rdata) : Invariant (complete st d s) := by
  obtain ⟨x, n, e, hy⟩ := complete_fields st d s
  rw [e]
  refine invariant_of_rsp rfl ht (fun _ => ⟨hd, hs, fun h => ?_⟩) (by simp [ho]) (by simp) (by simp)
  obtain ⟨y, rfl⟩ := Option.isSome_iff_exists.mp h
  exact (hy y rfl).trans (hx y rfl)

/-- Every transport beat keeps the invariant. -/
theorem TransportMove.invariant {s t : State} (hi : Invariant s) (hf : s.fsm.inTxn = true)
    (h : TransportMove s t) : Invariant t := by
  obtain ⟨ho, hv⟩ := hi.running hf
  have hh := header_of_inTxn hi hf
  cases h with
  | take r _ => exact invariant_of_inTxn hf ho hv hh hi.parityOnAck
  | fail a _ _ _ =>
    exact invariant_of_rsp rfl rfl (by simp [ResponseReadBack, hv]) (by simp) (by simp [ho, hv]) (by simp)
  | advance e f ao ar rd _ h1 h2 h3 => exact invariant_of_inTxn h1 ho hv (h2 ▸ hh) h3
  | dataEnd e d hs hk =>
    have hw : s.isWr = false := (hi.reading (by rw [hs]; rfl)).1
    exact complete_invariant rfl ho (by simp [hw]) (statusRule_of_not_ack hk d s.pbit).symm (by simp)
  | parityEnd e b hs =>
    have hw : s.isWr = false := (hi.reading (by rw [hs]; rfl)).1
    refine complete_invariant rfl ho (by simp [hw]) ?_ (by simp)
    simp [hi.parityOnAck hs, statusRule_of_ack]
  | writeEnd e c hs =>
    have hw : s.isWr = true := (hi.writing (by rw [hs]; rfl)).1
    exact complete_invariant rfl ho (by simp [hw]) (statusRule_write c s.rdata s.pbit).symm (by simp)

/-- A byte of a PACK is the last one exactly when its number is one less than the length. -/
theorem eq_pred_iff {i n : BitVec 64} (h : i.toNat < n.toNat) : i = n - 1 ↔ i.toNat + 1 = n.toNat := by
  constructor
  · rintro rfl; bv_omega
  · intro e; bv_omega

/-- Behind a byte that is not the last one there is another. -/
theorem succ_lt_of_ne_pred {i n : BitVec 64} (h : i.toNat < n.toNat) (hl : i ≠ n - 1) :
    (i + 1).toNat < n.toNat := by
  bv_omega

/-- A taken PACK byte keeps the invariant: the next byte lies within the output too. -/
theorem packBeat_invariant {s : State} (hi : Invariant s) (hf : s.fsm = .pkOut) : Invariant (packBeat s) := by
  obtain ⟨ho, he, hlt, hle⟩ := hi.packing hf
  have ht : s.tpTaken = false := tpTaken_of_not_inTxn hi (not_inTxn (.inr (.inr hf)))
  have hr : ResponseReadBack (packBeat s) := by simpa [ResponseReadBack] using hi.response
  by_cases hl : s.pkIdx = s.pkLen - 1
  · exact invariant_of_idle ((packBeat_fsm s).trans (if_pos hl)) (by simpa using ht) hr
  · refine invariant_of_pkOut ((packBeat_fsm s).trans (by rw [if_neg hl, hf])) (by simpa using ht) hr ?_
    simp only [packBeat_op, packBeat_err, packBeat_pkIdx, packBeat_pkLen, if_neg hl]
    exact ⟨ho, he, succ_lt_of_ne_pred hlt hl, hle⟩

/-- Every move keeps the invariant. -/
theorem Move.invariant {s t : State} (hi : Invariant s) (h : Move s t) : Invariant t := by
  cases h with
  | wait => exact hi
  | command i t hb hm => exact hm.invariant hi hb.1
  | illegal hf _ =>
    have ht : s.tpTaken = false := tpTaken_of_not_inTxn hi (not_inTxn (.inl hf))
    exact invariant_of_rsp rfl ht hi.response (by simp [illegalCommand]) (by simp [illegalCommand])
      (by simp [illegalCommand])
  | transport t hf hm => exact hm.invariant hi hf
  | takeRsp l hf _ =>
    have ht : s.tpTaken = false := tpTaken_of_not_inTxn hi (not_inTxn (.inr (.inl hf)))
    exact invariant_of_idle rfl (by simpa using ht) (by simpa [ResponseReadBack] using hi.response)
  | takeByte hf _ => exact packBeat_invariant hi hf

/-- Settles O41: a reset leads to an idle block without a response, and every kind of beat keeps the invariant. -/
theorem stepKeepsInvariant : Obligations.StepKeepsInvariant := by
  intro s t hi h
  rcases step_move_cases h with ⟨-, rfl⟩ | ⟨-, l, v, hm, rfl⟩
  · exact invariant_of_idle rfl rfl (by simp [ResponseReadBack, hardReset, State.reset])
  · exact invariant_consume (hm.invariant (invariant_noted hi l))

/-- Settles O42: right after reset the block is idle, without a response. -/
theorem invariantAtReset : Obligations.InvariantAtReset :=
  invariant_of_idle rfl rfl (by simp [ResponseReadBack, State.reset])

/-- A status by the rule is an acknowledge code, or INVALID in a response with data. -/
theorem statusRule_cases (hasData : Bool) (c : BitVec 3) (d : Data) (b : BitVec 1) :
    (statusRule hasData c d b).toNat ≤ 7 ∨ statusRule hasData c d b = 0xF#4 ∧ hasData = true := by
  unfold statusRule
  split
  · next h => right; simp at h; exact ⟨rfl, h.1.1⟩
  · left
    have hc := c.isLt
    simp only [BitVec.toNat_setWidth]
    omega

/-- Settles O43, from the invariant of the state after the step. -/
theorem statusIsLegal : Obligations.StatusIsLegal := by
  intro s t hi h hv
  obtain ⟨hd, hs, -⟩ := (stepKeepsInvariant s t hi h).response hv
  refine ⟨?_, hd⟩
  rw [hs]
  refine (statusRule_cases _ _ _ _).imp_right fun ⟨h1, h2⟩ => ⟨h1, ?_⟩
  simpa [h2] using hd.symm

end Sys2Proof.Proofs
end

section
/-!
PROOFS. The response port: which fields have a value in a state of a run and what it is, and the response beat
that is held until it is taken.
-/

open Sys2Proof Sys2Proof.Machine

namespace Sys2Proof.Proofs

theorem bitValue_eq_ite (b : Bool) : bitValue b = if b then 1 else 0 := by cases b <;> rfl

/-- A PACK byte as a number: the byte of PK_VAL at its index, 0 beyond the top of it (R117). -/
theorem packByte_eq_ofNat (v i : Opnd) :
    (packByte v i).setWidth Config.opndW = BitVec.ofNat _ (v.toNat / 2 ^ (8 * i.toNat) % 256) := by
  apply BitVec.eq_of_toNat_eq
  have hv : v.toNat < 2 ^ 64 := v.isLt
  unfold packByte
  split
  · next h =>
    have h0 : v.toNat / 2 ^ (8 * i.toNat) = 0 :=
      Nat.div_eq_of_lt (hv.trans_le (Nat.pow_le_pow_right (by omega) h))
    simp [h0]
  · simp [Nat.shiftRight_eq_div_pow]

/-- What a caller reads where a beat is offered. -/
theorem portField_of_offered {s : State} (hf : s.fsm = .rsp ∨ s.fsm = .pkOut) (f : RspField) :
    portField s f = RspBeat.field { op := s.op, err := s.err, body := rspBody s } f := by
  have hp : rspPort s = some { op := s.op, err := s.err, body := rspBody s } :=
    hf.elim rspPort_of_rsp rspPort_of_pkOut
  simp only [portField, hp]

/-- Nothing can be read where no beat is offered. -/
theorem portField_of_not_offered {s : State} (hf : ¬(s.fsm = .rsp ∨ s.fsm = .pkOut)) (f : RspField) :
    portField s f = none := by
  have hp : rspPort s = none := by simpa [rspPort, State.rspValid] using hf
  simp only [portField, hp]

/-- The fields of an error beat (R20). -/
theorem field_of_error {s : State} (he : s.err ≠ .none) (f : RspField) :
    RspBeat.field { op := s.op, err := s.err, body := rspBody s } f =
      if f ∈ definedFields s.op s.err s.isWr then some (fieldValue s f) else none := by
  cases h : s.err
  case none => exact absurd h he
  all_goals cases f <;> simp [RspBeat.field, rspBody, definedFields, fieldValue, h, errBits, Config.opndW]

/-- The fields of a utility's beat without error (R20). -/
theorem field_of_utility {s : State} (he : s.err = .none) (ho : s.op ∈ [0x1#4, 0x2#4, 0x4#4, 0x5#4])
    (f : RspField) :
    RspBeat.field { op := s.op, err := s.err, body := rspBody s } f =
      if f ∈ definedFields s.op s.err s.isWr then some (fieldValue s f) else none := by
  simp only [List.mem_cons, List.not_mem_nil, or_false] at ho
  rcases ho with ho | ho | ho | ho
  all_goals cases f <;> simp [RspBeat.field, rspBody, definedFields, fieldValue, he, ho, errBits]

/-- The fields of a transaction's beat without error (R20): the data only after a READ. -/
theorem field_of_txn {s : State} (he : s.err = .none) (ho : s.op = 0x3#4) (hv : s.respValid = true)
    (hd : s.respHasData = !s.isWr) (f : RspField) :
    RspBeat.field { op := s.op, err := s.err, body := rspBody s } f =
      if f ∈ definedFields s.op s.err s.isWr then some (fieldValue s f) else none := by
  cases hw : s.isWr
  all_goals
    cases f <;> simp [RspBeat.field, rspBody, definedFields, fieldValue, he, ho, hv, hd, hw, errBits,
      bitValue_eq_ite, isAck, isWait, isFault, isInvalid, Config.invalidCode]

/-- The fields of a PACK byte (R20, R117). -/
theorem field_of_pack {s : State} (he : s.err = .none) (ho : s.op = 0x6#4) (hl : s.pkIdx.toNat < s.pkLen.toNat)
    (f : RspField) :
    RspBeat.field { op := s.op, err := s.err, body := rspBody s } f =
      if f ∈ definedFields s.op s.err s.isWr then some (fieldValue s f) else none := by
  have hlast : s.pkIdx = s.pkLen - 1#Config.opndW ↔ s.pkIdx.toNat + 1 = s.pkLen.toNat := eq_pred_iff hl
  cases f <;> simp [RspBeat.field, rspBody, definedFields, fieldValue, he, ho, hlast, errBits,
    bitValue_eq_ite, packByte_eq_ofNat]

/-- In a state of a run a beat on offer has a value for exactly its defined fields, that of their registers. -/
theorem portField_eq_ite {s : State} (hi : Invariant s) (hf : s.fsm = .rsp ∨ s.fsm = .pkOut) (f : RspField) :
    portField s f = if f ∈ definedFields s.op s.err s.isWr then some (fieldValue s f) else none := by
  rw [portField_of_offered hf]
  by_cases he : s.err = .none
  · rcases hf with hf | hf
    · obtain ⟨ho, hv⟩ := hi.answering hf he
      by_cases h3 : s.op = 0x3#4
      · exact field_of_txn he h3 (hv h3) (hi.response (hv h3)).1 f
      · exact field_of_utility he (by simpa [h3] using ho) f
    · obtain ⟨ho, -, hl, -⟩ := hi.packing hf
      exact field_of_pack he ho hl f
  · exact field_of_error he f

/-- Settles O45: a defined field has the value of its register. -/
theorem responseFieldValues : Obligations.ResponseFieldValues := by
  intro s f hi hf hm
  rw [portField_eq_ite hi hf, if_pos hm]

/-- An event at which the caller reads a field is that read, then the block's own part. -/
theorem step_of_sample {s : State} {f : RspField} (hr : s.now.rst = false) (hs : s.now.sample = some f) :
    step s = andThen (sampleField f (noteLine s)) fun u => andThen (runEvent u) fun t => .next t.consume := by
  simp [step, event, callerSample, hr, hs]

/-- A move keeps what the caller has read. -/
theorem Move.samples_subset {s t : State} (h : Move s t) : s.samples ⊆ t.samples := by
  cases h with
  | wait => exact List.Subset.refl _
  | command i t _ hm => rw [hm.frame]; exact List.Subset.refl _
  | illegal _ _ => exact List.Subset.refl _
  | transport t _ hm => rw [hm.frame]; exact List.Subset.refl _
  | takeRsp l _ _ => simp
  | takeByte _ _ => simp

/-- What the caller reads is recorded. -/
theorem mem_samples_of_step {s t : State} {f : RspField} {v : Opnd} (hr : s.now.rst = false)
    (hs : s.now.sample = some f) (hv : portField s f = some v) (h : step s = .next t) : (f, v) ∈ t.samples := by
  simp only [step_of_sample hr hs, sampleField, portField_noteLine, hv, andThen_next] at h
  obtain ⟨w, hw, e⟩ := andThen_eq_next h
  cases e
  exact (move_of_runEvent (s := addSamples [(f, v)] (noteLine s)) hr hw).samples_subset (by simp)

/-- A read of a field without value is a fault. -/
theorem step_of_noValue {s : State} {f : RspField} (hr : s.now.rst = false) (hs : s.now.sample = some f)
    (hv : portField s f = none) : step s = .fault (.noValue f) := by
  rw [step_of_sample hr hs, sampleField, portField_noteLine, hv]
  rfl

/-- Settles O30: the defined fields are those of `portField_eq_ite`. -/
theorem definedFieldsOfABeat : Obligations.DefinedFieldsOfABeat := by
  intro s f hi hr hs
  refine ⟨?_, step_of_noValue hr hs, fun v t hv h => mem_samples_of_step hr hs hv h, fun hf ho he => ?_⟩
  · by_cases hf : s.fsm = .rsp ∨ s.fsm = .pkOut
    · rw [portField_eq_ite hi hf]
      simp [hf]
    · rw [portField_of_not_offered hf]
      simp [hf]
  · have hv := (hi.answering hf he).2 ho
    rw [portField_eq_ite hi (.inl hf), if_pos (by simp [definedFields, he, ho]), fieldValue, (hi.response hv).1]
    cases s.isWr <;> rfl

/-- In RSP the only words an event runs are statuses, whose meanings are the predicates. -/
theorem decodeStatus_of_fetched {s : State} {i : Instr} (hf : s.fsm = .rsp) (hx : fetched s = some i) :
    s.txnOffered = true ∧ decodeStatus s.respStatus = .ok i := by
  cases hy : s.now.rspReady && s.txnOffered with
  | false => simp [fetched, fetchWord, hf, hy] at hx
  | true =>
    cases hd : decodeStatus s.respStatus with
    | error x => simp [fetched, fetchWord, decode, hf, hy, hd] at hx
    | ok j =>
      simp [fetched, fetchWord, decode, hf, hy, hd] at hx
      rw [Bool.and_eq_true] at hy
      exact ⟨hy.2, hx ▸ rfl⟩

/-- The block's own part of an event always goes on where a beat is offered. -/
theorem runEvent_goes_on {s : State} (hf : s.fsm = .rsp ∨ s.fsm = .pkOut) : ∃ t, runEvent s = .next t := by
  cases hx : fetched s with
  | none => exact ⟨background s, by simp only [runEvent, hx]⟩
  | some i =>
    rcases hf with hf | hf
    · obtain ⟨ho, hd⟩ := decodeStatus_of_fetched hf hx
      obtain ⟨x, e⟩ := exec_predicate ho (decodeStatus_cases hd)
      exact ⟨afterExec s.fsm (addSamples [x] s), by simp only [runEvent, hx, e, andThen_next]⟩
    · simp [fetched, fetchWord, hf] at hx

/-- Without rsp_ready a beat on offer stays. -/
theorem runEvent_held {s : State} (hf : s.fsm = .rsp ∨ s.fsm = .pkOut) (hr : s.now.rspReady = false) :
    runEvent s = .next s := by
  rcases hf with hf | hf
  · simp [runEvent, fetched, fetchWord, background, hf, hr]
  · simp [runEvent, fetched, fetchWord, background, hf, hr]

/-- With rsp_ready the beat of RSP is taken; the predicate that is read then is recorded. -/
theorem runEvent_takeRsp {s : State} (hf : s.fsm = .rsp) (hr : s.now.rspReady = true) :
    ∃ l, runEvent s = .next (takeBeat (addSamples l s)) := by
  obtain ⟨t, ht⟩ := runEvent_goes_on (.inl hf)
  have hm := runEvent_cases ht
  simp [hf, hr, Fsm.inTxn, Fsm.inRead, Fsm.inWrite] at hm
  obtain ⟨l, rfl⟩ := hm
  exact ⟨l, ht⟩

/-- With rsp_ready the byte of PK_OUT is taken. -/
theorem runEvent_takeByte {s : State} (hf : s.fsm = .pkOut) (hr : s.now.rspReady = true) :
    runEvent s = .next (packBeat s) := by
  simp [runEvent, fetched, fetchWord, background, hf, hr]

/-- The last byte of a PACK leads to IDLE (R117). -/
theorem packBeat_last {s : State} {b : RspBeat} (h : rspPort s = some b) (hl : s.pkIdx = s.pkLen - 1) :
    packBeat s = { s with rspLog := s.rspLog ++ [b], fsm := .idle } := by
  rw [packBeat, if_pos hl, takeBeat_of_some h]

/-- Any other byte of a PACK leads to the next index (R117). -/
theorem packBeat_not_last {s : State} {b : RspBeat} (h : rspPort s = some b) (hl : s.pkIdx ≠ s.pkLen - 1) :
    packBeat s = { s with rspLog := s.rspLog ++ [b], pkIdx := s.pkIdx + 1 } := by
  rw [packBeat, if_neg hl, logBeat_of_some h]

/-- Settles O31: a beat is held without rsp_ready and taken with it. -/
theorem responseBeatIsHeld : Obligations.ResponseBeatIsHeld := by
  intro s hf hq
  have hs := step_quiet hq
  obtain ⟨b, hb⟩ : ∃ b, rspPort s = some b := ⟨_, hf.elim rspPort_of_rsp rspPort_of_pkOut⟩
  cases hr : s.now.rspReady with
  | false =>
    rw [runEvent_held (s := noteLine s) hf hr] at hs
    exact ⟨_, hs, fun _ => ⟨rfl, rfl⟩, by simp⟩
  | true =>
    rcases hf with hf | hf
    · obtain ⟨l, e⟩ := runEvent_takeRsp (s := noteLine s) hf hr
      rw [e, takeBeat_of_some (s := addSamples l (noteLine s)) hb] at hs
      exact ⟨_, hs, by simp, fun _ => ⟨⟨b, hb, rfl⟩, fun _ => rfl, by simp [hf], by simp [hf]⟩⟩
    · rw [runEvent_takeByte (s := noteLine s) hf hr] at hs
      by_cases hl : s.pkIdx = s.pkLen - 1
      · rw [packBeat_last (s := noteLine s) hb hl] at hs
        exact ⟨_, hs, by simp, fun _ => ⟨⟨b, hb, rfl⟩, by simp [hf], fun _ _ => rfl, fun _ h => absurd hl h⟩⟩
      · rw [packBeat_not_last (s := noteLine s) hb hl] at hs
        exact ⟨_, hs, by simp, fun _ => ⟨⟨b, hb, rfl⟩, by simp [hf], fun _ h => absurd h hl, fun _ _ => rfl⟩⟩

end Sys2Proof.Proofs
end

section
/-!
PROOFS. The ports: where an event's instruction comes from, the waits, the transport request's signals, and which
input signals a step does not look at.
-/

open Sys2Proof Sys2Proof.Machine

namespace Sys2Proof.Proofs

/-- A word that decodes is the event's instruction. -/
theorem fetched_of_decode {s : State} {c : CodeWord} {i : Instr} (hw : fetchWord s = some c)
    (hd : decode c = .ok i) : fetched s = some i := by
  simp only [fetched, hw, hd]

/-- The end of an event keeps what the response beat wrote, and drops the event. -/
theorem afterExec_consume (f : Fsm) (t : State) :
    (afterExec f t).consume = { (if f = .rsp then takeBeat t else t) with inputs := t.inputs.tail } := by
  by_cases h : f = .rsp <;> simp [afterExec, h, State.consume]

/-- Settles O7: a quiet event is the block's own part, which is `exec` of what it fetched. -/
theorem stepRunsDecodedInstruction : Obligations.StepRunsDecodedInstruction := by
  intro s c i hq hw hd
  have hx : fetched (noteLine s) = some i := fetched_of_decode (s := noteLine s) hw hd
  rw [step_quiet hq]
  simp only [runEvent, hx]
  cases exec i (noteLine s) with
  | next t => simp [afterExec_consume]
  | fault r => rfl
  | refused r => rfl

/-- Settles O8: the three places of `fetchWord`. -/
theorem wordsComeFromThePorts : Obligations.WordsComeFromThePorts := by
  refine ⟨fun s hf hv => by simp [fetchWord, hf, hv], fun s hf => ?_, fun s ho hr => ?_, fun s c h => ?_⟩
  · rcases hf with hf | hf <;> simp [fetchWord, hf]
  · have hf : s.fsm = .rsp := by simp [State.txnOffered] at ho; exact ho.1.1.1
    simp [fetchWord, hf, ho, hr]
  · cases hf : s.fsm <;> simp [fetchWord, hf] at h <;> simp [h]

/-- Settles O46: without cmd_valid an event in IDLE runs no instruction. -/
theorem idleWaitsForACommand : Obligations.IdleWaitsForACommand := by
  intro s hf hq hv
  have hr : runEvent (noteLine s) = .next (noteLine s) := by
    simp [runEvent, fetched, fetchWord, background, hf, hv]
  rw [step_quiet hq, hr]
  exact ⟨_, rfl, rfl⟩

/-- A request that is not taken, or not answered, waits. -/
theorem transactionBeat_waits {s : State}
    (h : s.tpTaken = false ∧ s.now.tpReqReady = false ∨ s.tpTaken = true ∧ s.now.answer = none) :
    transactionBeat s = s := by
  unfold transactionBeat
  split
  · rcases h with ⟨h1, h2⟩ | ⟨h1, h2⟩ <;> simp [transportBeat, h1, h2]
  · rfl

/-- Settles O21: an event that brings the request nothing leaves the transaction where it is. -/
theorem waitingChangesNothing : Obligations.WaitingChangesNothing := by
  intro s hf hq hw
  rw [step_txn hf hq, transactionBeat_waits (s := noteLine s) hw]
  exact ⟨_, rfl, rfl⟩

/-- A transaction state has a request, no other state has one. -/
theorem isSome_stateRequest (s : State) : (stateRequest s).isSome = s.fsm.inTxn := by
  cases hf : s.fsm <;> simp [stateRequest, hf, Fsm.inTxn, Fsm.inRead, Fsm.inWrite]

/-- A request on the port is that of the state. -/
theorem stateRequest_of_tpReqPort {s : State} {r : TpReq} (h : s.tpReqPort = some r) : stateRequest s = some r := by
  unfold State.tpReqPort at h
  split at h
  · cases h
  · exact h

/-- Settles O47: the port shows the state's request until it is taken. -/
theorem transportRequestSignals : Obligations.TransportRequestSignals := by
  intro s
  refine ⟨?_, fun r h => ?_⟩
  · rw [← isSome_stateRequest, State.tpReqValid, State.tpReqPort]
    cases s.tpTaken <;> simp
  · have hr := stateRequest_of_tpReqPort h
    cases hf : s.fsm <;> simp only [stateRequest, hf, reduceCtorEq, Option.some.injEq] at hr <;> subst hr <;>
      simp [headerRequest, dirBits, Config.offData, Config.offParity]

end Sys2Proof.Proofs
end

section
/-!
PROOFS. Which input signals a step does not look at: the command port outside IDLE, the stray bits of a READ
answer, the operand buses and command-word fields a command does not use.
-/

open Sys2Proof Sys2Proof.Machine

namespace Sys2Proof.Proofs

@[simp] theorem portField_inputs (s : State) (l : List Inputs) (f : RspField) :
    portField { s with inputs := l } f = portField s f := rfl

/-- The end of an event forgets what it brought. -/
@[simp] theorem consume_cons (s : State) (e : Inputs) (rest : List Inputs) :
    State.consume { s with inputs := e :: rest } = { s with inputs := rest } := rfl

/-- Two events that agree on the signals outside the block's own part, and for which that part does the same,
give the same step. -/
theorem step_congr {s : State} {e e' : Inputs} {rest : List Inputs} (hrst : e.rst = e'.rst)
    (hsample : e.sample = e'.sample) (hline : e.lineReset = e'.lineReset) (huse : e.foreignUse = e'.foreignUse)
    (hrun : ∀ u : State, u.fsm = s.fsm → stateRequest u = stateRequest s →
      andThen (runEvent { u with inputs := e :: rest }) (fun t => .next t.consume) =
      andThen (runEvent { u with inputs := e' :: rest }) (fun t => .next t.consume)) :
    step { s with inputs := e :: rest } = step { s with inputs := e' :: rest } := by
  obtain ⟨u, hf, hq, h1, h2⟩ : ∃ u : State, u.fsm = s.fsm ∧ stateRequest u = stateRequest s ∧
      noteLine { s with inputs := e :: rest } = { u with inputs := e :: rest } ∧
      noteLine { s with inputs := e' :: rest } = { u with inputs := e' :: rest } :=
    ⟨noteLine { s with inputs := e :: rest }, rfl, rfl, rfl, by simp [noteLine, State.usesTransport, hline, huse]⟩
  simp only [step, event, h1, h2, now_cons, hrst]
  split
  · rfl
  · simp only [callerSample, now_cons, hsample]
    cases e'.sample with
    | none => exact hrun u hf hq
    | some f =>
      simp only [sampleField, portField_inputs]
      cases portField u f with
      | none => rfl
      | some v => exact hrun (addSamples [(f, v)] u) hf hq

/-- An answered request does not touch the events to come. -/
theorem advance_consume (a : TpAnswer) (s : State) : (advance a s).consume = advance a s.consume := by
  have h : (advance a s).inputs = s.inputs := (congrArg State.inputs (advance_inputs a s s.inputs)).symm
  rw [State.consume, h, advance_inputs]
  rfl

/-- What one event does to the request of a transaction state, by the two transport signals it brings. -/
def requestBeat (ready : Bool) (answer : Option TpAnswer) (r : TpReq) (s : State) : State :=
  if s.tpTaken then
    match answer with
    | none => s
    | some a =>
      let t := logTp (answerEvent r a) { s with tpTaken := false }
      if a.err then abort a.errCode t else advance a t
  else if ready then logTp (.request r) { s with tpTaken := true }
  else s

/-- A transaction beat looks at no other signal of its event. -/
theorem transactionBeat_eq_requestBeat {s : State} {r : TpReq} (hr : stateRequest s = some r) :
    transactionBeat s = requestBeat s.now.tpReqReady s.now.answer r s := by
  have hb : transactionBeat s = transportBeat r advance s := by simp only [transactionBeat, hr]
  exact hb.trans rfl

/-- It does the same when the event is over. -/
theorem requestBeat_consume (ready : Bool) (answer : Option TpAnswer) (r : TpReq) (s : State) :
    (requestBeat ready answer r s).consume = requestBeat ready answer r s.consume := by
  unfold requestBeat
  by_cases ht : s.tpTaken = true
  · rw [if_pos ht, if_pos (show s.consume.tpTaken = true from ht)]
    cases answer with
    | none => rfl
    | some a =>
      by_cases he : a.err = true
      · simp only [if_pos he]; rfl
      · simp only [if_neg he]; exact advance_consume a _
  · rw [if_neg ht, if_neg (show ¬s.consume.tpTaken = true from ht)]
    cases ready <;> rfl

/-- In a transaction state the block's own part looks at tp_req_ready and the answer only. -/
theorem runEvent_txn_consume {s : State} {r : TpReq} (hr : stateRequest s = some r) (e : Inputs)
    (rest : List Inputs) :
    andThen (runEvent { s with inputs := e :: rest }) (fun t => .next t.consume) =
      .next (requestBeat e.tpReqReady e.answer r { s with inputs := rest }) := by
  have hf : s.fsm.inTxn = true := by rw [← isSome_stateRequest, hr]; rfl
  rw [runEvent_txn (s := { s with inputs := e :: rest }) hf,
    transactionBeat_eq_requestBeat (s := { s with inputs := e :: rest }) hr]
  simp only [andThen_next, requestBeat_consume, consume_cons, now_cons]

theorem sampleField_consume (f : RspField) (s : State) :
    andThen (sampleField f s) (fun t => .next t.consume) = sampleField f s.consume := by
  have hp : portField s.consume f = portField s f := rfl
  rw [sampleField, sampleField, hp]
  cases portField s f <;> rfl

/-- A predicate's read looks at no signal of its event. -/
theorem exec_predicate_consume {i : Instr} (hi : i = .isAck ∨ i = .isWait ∨ i = .isFault ∨ i = .isInvalid)
    (s : State) : andThen (exec i s) (fun t => .next t.consume) = exec i s.consume := by
  rcases hi with rfl | rfl | rfl | rfl <;> exact sampleField_consume _ s

theorem logBeat_consume (s : State) : (logBeat s).consume = logBeat s.consume := by
  have hp : rspPort s.consume = rspPort s := rfl
  rw [logBeat, logBeat, hp]
  cases rspPort s <;> rfl

theorem takeBeat_consume (s : State) : (takeBeat s).consume = takeBeat s.consume :=
  congrArg (fun t : State => { t with fsm := .idle }) (logBeat_consume s)

theorem packBeat_consume (s : State) : (packBeat s).consume = packBeat s.consume := by
  by_cases hl : s.pkIdx = s.pkLen - 1
  · rw [packBeat, packBeat, if_pos hl, if_pos (show s.consume.pkIdx = s.consume.pkLen - 1 from hl)]
    exact takeBeat_consume s
  · rw [packBeat, packBeat, if_neg hl, if_neg (show ¬s.consume.pkIdx = s.consume.pkLen - 1 from hl)]
    exact congrArg (fun t : State => { t with pkIdx := s.pkIdx + 1 }) (logBeat_consume s)

/-- The predicate that is read with the response beat of a transaction (R107). -/
def statusInstr (s : State) : Option Instr :=
  if s.txnOffered then (decodeStatus s.respStatus).toOption else none

theorem decodeStatus_of_statusInstr {s : State} {i : Instr} (h : statusInstr s = some i) :
    decodeStatus s.respStatus = .ok i := by
  unfold statusInstr at h
  split at h
  · cases hd : decodeStatus s.respStatus <;> simp [hd, Except.toOption] at h
    rw [h]
  · cases h

/-- What one event does to the beat on offer, by the one signal of the response port it brings. -/
def responseBeat (ready : Bool) (s : State) : Host.Outcome State Fault Refusal :=
  if ready then
    if s.fsm = .pkOut then .next (packBeat s)
    else
      match statusInstr s with
      | some i => andThen (exec i s) fun t => .next (takeBeat t)
      | none => .next (takeBeat s)
  else .next s

/-- Where a beat is offered the block's own part looks at no other signal of its event. -/
theorem runEvent_eq_responseBeat {s : State} (hf : s.fsm = .rsp ∨ s.fsm = .pkOut) :
    runEvent s = responseBeat s.now.rspReady s := by
  cases hy : s.now.rspReady with
  | false => rw [runEvent_held hf hy]; rfl
  | true =>
    rcases hf with hf | hf
    · cases ho : s.txnOffered with
      | false => simp [runEvent, fetched, fetchWord, background, responseBeat, statusInstr, hf, hy, ho]
      | true =>
        cases hd : decodeStatus s.respStatus <;>
          simp [runEvent, fetched, fetchWord, decode, background, responseBeat, statusInstr, afterExec,
            Except.toOption, hf, hy, ho, hd]
    · rw [runEvent_takeByte hf hy]
      simp [responseBeat, hf]

/-- It does the same when the event is over. -/
theorem responseBeat_consume (ready : Bool) (s : State) :
    andThen (responseBeat ready s) (fun t => .next t.consume) = responseBeat ready s.consume := by
  cases ready with
  | false => rfl
  | true =>
    by_cases hf : s.fsm = .pkOut
    · simp [responseBeat, hf, packBeat_consume]
    · have hi : statusInstr s.consume = statusInstr s := rfl
      simp only [responseBeat, consume_fsm, hf, hi, if_true, if_false]
      cases hx : statusInstr s with
      | none => simp [takeBeat_consume]
      | some i =>
        simp only [← exec_predicate_consume (decodeStatus_cases (decodeStatus_of_statusInstr hx))]
        cases exec i s <;> simp [takeBeat_consume]

/-- Outside IDLE a transaction runs or a beat is offered. -/
theorem fsm_of_not_idle {f : Fsm} (h : f ≠ .idle) : f.inTxn = true ∨ f = .rsp ∨ f = .pkOut := by
  cases f <;> simp [Fsm.inTxn, Fsm.inRead, Fsm.inWrite] at h ⊢

/-- Settles O10: outside IDLE the block's own part looks at the transport's signals or at rsp_ready. -/
theorem busyBlockIgnoresCommandPort : Obligations.BusyBlockIgnoresCommandPort := by
  refine ⟨fun s => by simp [State.cmdReady], fun s e rest valid word data hdr val bits hf => ?_⟩
  refine step_congr rfl rfl rfl rfl fun u hu _ => ?_
  rcases fsm_of_not_idle (hu ▸ hf) with hx | hx
  · obtain ⟨r, hr⟩ := Option.isSome_iff_exists.mp ((isSome_stateRequest u).trans hx)
    rw [runEvent_txn_consume hr, runEvent_txn_consume hr]
    rfl
  · rw [runEvent_eq_responseBeat (s := { u with inputs := _ :: rest }) hx,
      runEvent_eq_responseBeat (s := { u with inputs := e :: rest }) hx, responseBeat_consume, responseBeat_consume]
    rfl

/-- The value is one field of an answer. -/
theorem answer_of_value (e : Inputs) (v : BitVec 32) :
    Inputs.answer { e with tpRspValue := v } = e.answer.map fun a => { a with value := v } := by
  unfold Inputs.answer
  cases e.tpRspValid && !e.tpRspLate <;> rfl

/-- The bits of a READ answer that are recorded are those SWDC keeps (R24). -/
theorem and_mask_congr {v v' : BitVec 32} {n : BitVec 6} (h : v.setWidth n.toNat = v'.setWidth n.toNat) :
    v &&& (BitVec.allOnes 32 >>> (32 - n.toNat)) = v' &&& (BitVec.allOnes 32 >>> (32 - n.toNat)) := by
  apply BitVec.eq_of_getLsbD_eq
  intro k hk
  by_cases hn : k < n.toNat
  · have hb := congrArg (fun x => x.getLsbD k) h
    simp [hn] at hb
    simp [hb]
  · have h0 : ¬32 - n.toNat + k < 32 := by omega
    simp only [BitVec.getLsbD_and, BitVec.getLsbD_ushiftRight, BitVec.getLsbD_allOnes, h0, decide_false, Bool.and_false]

/-- An answered READ uses the bits SWDC keeps only (R24). -/
theorem advance_of_setWidth {s : State} {o : Off} {n : BitVec 6} {v v' : BitVec 32}
    (hr : stateRequest s = some (.read o n)) (hv : v.setWidth n.toNat = v'.setWidth n.toNat) (a : TpAnswer) :
    advance { a with value := v } s = advance { a with value := v' } s := by
  cases hf : s.fsm <;> simp [stateRequest, hf, headerRequest] at hr <;> obtain ⟨-, rfl⟩ := hr
  case rStat =>
    have hv : v.setWidth 8 = v'.setWidth 8 := hv
    simp only [advance, hf, ackCode, readBits, hv]
  case rData =>
    have hv : v.setWidth 32 = v'.setWidth 32 := hv
    simp only [advance, hf, readBits, hv]
  case rPar =>
    have hv : v.setWidth 1 = v'.setWidth 1 := hv
    simp only [advance, hf, readBits, hv]
  case wStat =>
    have hv : v.setWidth 8 = v'.setWidth 8 := hv
    simp only [advance, hf, ackCode, readBits, hv]

/-- One event of a READ request uses the bits SWDC keeps only. -/
theorem requestBeat_of_setWidth {s : State} {o : Off} {n : BitVec 6} {v v' : BitVec 32} (ready : Bool)
    (answer : Option TpAnswer) (hr : stateRequest s = some (.read o n))
    (hv : v.setWidth n.toNat = v'.setWidth n.toNat) :
    requestBeat ready (answer.map fun a => { a with value := v }) (.read o n) s =
      requestBeat ready (answer.map fun a => { a with value := v' }) (.read o n) s := by
  cases answer with
  | none => rfl
  | some a =>
    have ha : answerEvent (.read o n) { a with value := v } = answerEvent (.read o n) { a with value := v' } := by
      simp only [answerEvent, and_mask_congr hv]
    simp only [requestBeat, Option.map_some, ha]
    have hk := advance_of_setWidth (s := logTp (answerEvent (.read o n) { a with value := v' }) { s with tpTaken := false })
      hr hv a
    rw [hk]

/-- Settles O22: the step of a READ request uses the bits SWDC keeps only. -/
theorem strayReadBitsIgnored : Obligations.StrayReadBitsIgnored := by
  intro s e rest o n v v' hr hv
  refine step_congr rfl rfl rfl rfl fun u _ hq => ?_
  have hr' : stateRequest u = some (.read o n) := hq.trans hr
  rw [runEvent_txn_consume hr', runEvent_txn_consume hr', answer_of_value e v, answer_of_value e v',
    requestBeat_of_setWidth (s := { u with inputs := rest }) _ _ hr' hv]

/-! ### Unused fields and operands -/

/-- A field all of whose bits are in a mask is the same in two words that agree under the mask. -/
theorem extractLsb'_of_and_eq {w w' m : BitVec 16} (h : w' &&& m = w &&& m) (k n : Nat)
    (hm : m.extractLsb' k n = BitVec.allOnes n) : w'.extractLsb' k n = w.extractLsb' k n := by
  have e := congrArg (fun x => x.extractLsb' k n) h
  simpa [BitVec.extractLsb'_and, hm] using e

/-- The same for a field of one bit. -/
theorem getLsbD_of_and_eq {w w' m : BitVec 16} (h : w' &&& m = w &&& m) (k : Nat) (hm : m.getLsbD k = true) :
    w'.getLsbD k = w.getLsbD k := by
  have e := congrArg (fun x => x.getLsbD k) h
  simpa [BitVec.getLsbD_and, hm] using e

/-- Command words with the same OP, RSV and, where the OP uses them, D, AP, ADDR and BP decode alike (R63). -/
theorem decodeCW_congr {w w' : BitVec 16} {i : Instr} (hd : decodeCW w = .ok i) (hop : cwOp w' = cwOp w)
    (hrsv : cwRsv w' = cwRsv w)
    (htxn : cwOp w = 0x1#4 ∨ cwOp w = 0x3#4 → cwD w' = cwD w ∧ cwAp w' = cwAp w ∧ cwAddr w' = cwAddr w)
    (hpack : cwOp w = 0x6#4 → cwBp w' = cwBp w) : decodeCW w' = .ok i := by
  rw [← hd]
  unfold decodeCW
  rw [hop, hrsv]
  by_cases h1 : cwOp w = 0x1#4
  · obtain ⟨e1, e2, e3⟩ := htxn (.inl h1)
    rw [e1, e2, e3]
    simp [h1]
  by_cases h3 : cwOp w = 0x3#4
  · obtain ⟨e1, e2, e3⟩ := htxn (.inr h3)
    rw [e1, e2, e3]
    simp [h3]
  by_cases h6 : cwOp w = 0x6#4
  · simp [h6, hpack h6]
  · simp [h1, h3, h6]

/-- The bits an instruction uses, by the OP of its command word (R63). -/
theorem usedBits_of_decodeCW {w : BitVec 16} {i : Instr} (hd : decodeCW w = .ok i) :
    (cwOp w = 0x1#4 ∨ cwOp w = 0x3#4 → usedBits i = 0xFEFF#16) ∧ (cwOp w = 0x6#4 → usedBits i = 0xFF0F#16) := by
  have hr := (decodeCW_cases hd).1
  unfold decodeCW at hd
  refine ⟨?_, fun h => ?_⟩
  · rintro (h | h)
    · simp [hr, h] at hd
      simp [← hd, usedBits]
    · simp [hr, h] at hd
      split at hd <;> cases hd <;> rfl
  · simp [hr, h] at hd
    simp [← hd, usedBits]

/-- Every command uses OP and RSV (R63). -/
theorem usedBits_op_rsv {w : BitVec 16} {i : Instr} (hd : decodeCW w = .ok i) :
    (usedBits i).extractLsb' 0 4 = BitVec.allOnes 4 ∧ (usedBits i).extractLsb' 9 7 = BitVec.allOnes 7 := by
  obtain ⟨-, hi⟩ := decodeCW_cases hd
  rcases hi with ⟨a, p, d, rfl⟩ | rfl | ⟨a, p, rfl⟩ | ⟨a, p, rfl⟩ | rfl | rfl | ⟨bp, rfl⟩ <;> simp only [usedBits] <;> decide

/-- Command words that agree on the bits the instruction of one of them uses decode alike (R63). -/
theorem decodeCW_of_usedBits {w w' : BitVec 16} {i : Instr} (hd : decodeCW w = .ok i)
    (h : w' &&& usedBits i = w &&& usedBits i) : decodeCW w' = .ok i := by
  obtain ⟨hop, hrsv⟩ := usedBits_op_rsv hd
  obtain ⟨htxn, hpack⟩ := usedBits_of_decodeCW hd
  refine decodeCW_congr hd (extractLsb'_of_and_eq h 0 4 hop) (extractLsb'_of_and_eq h 9 7 hrsv) (fun ho => ?_)
    (fun ho => ?_)
  · rw [htxn ho] at h
    exact ⟨getLsbD_of_and_eq h 4 (by decide), getLsbD_of_and_eq h 5 (by decide), extractLsb'_of_and_eq h 6 2 (by decide)⟩
  · rw [hpack ho] at h
    exact getLsbD_of_and_eq h 8 (by decide)

/-- A command beat looks at the operand buses its command uses, and at no other signal of its event. -/
theorem exec_of_sameOperands {s : State} (hf : s.fsm = .idle) {i : Instr} {e e' : Inputs}
    (h : sameOperands i e e') (rest : List Inputs) :
    andThen (exec i { s with inputs := e :: rest }) (fun t => .next t.consume) =
    andThen (exec i { s with inputs := e' :: rest }) (fun t => .next t.consume) := by
  have hb : ∀ x k, atCommandBeat { s with inputs := x :: rest } k = k { s with inputs := x :: rest } :=
    fun x k => atCommandBeat_idle k hf
  cases i with
  | buildHeader a p w => simp only [exec, execBuildHeader, hb]; rfl
  | decodeHeader =>
    have h : e.cmdHdr = e'.cmdHdr := h
    simp only [exec, execDecodeHeader, hb, now_cons, h]; rfl
  | read a p => simp only [exec, execRead, hb]; rfl
  | write a p =>
    have h : e.cmdData = e'.cmdData := h
    simp only [exec, execWrite, hb, startTxn, now_cons, h]; rfl
  | parity =>
    have h : e.cmdVal = e'.cmdVal := h
    simp only [exec, execParity, hb, now_cons, h]
    cases parity (sintOpnd e'.cmdVal) <;> simp [State.consume, raise, emit]
  | packSize =>
    have h : e.cmdVal = e'.cmdVal := h
    simp only [exec, execPackSize, hb, now_cons, h]
    cases packSize (sintOpnd e'.cmdVal) <;> simp [State.consume, raise, emit]
  | pack bp =>
    obtain ⟨h1, h2⟩ := h
    have hbits : bitsOperand bp e.cmdBits = bitsOperand bp e'.cmdBits := by
      cases bp with
      | false => simp [bitsOperand]
      | true => rw [h2 rfl]
    simp only [exec, execPack, hb, now_cons, h1, hbits]
    cases packLength (sintOpnd e'.cmdVal) (bitsOperand bp e'.cmdBits) with
    | none => simp [State.consume, raise, emit]
    | some n => cases hx : exceeds s.maxPackBytes n <;> simp [hx, State.consume]
  | dpRead p a => cases (show e = e' from h); rfl
  | dpWrite p a => cases (show e = e' from h); rfl
  | apRead p a => cases (show e = e' from h); rfl
  | apWrite p a => cases (show e = e' from h); rfl
  | isAck => rw [exec_predicate_consume (by simp), exec_predicate_consume (by simp)]; rfl
  | isWait => rw [exec_predicate_consume (by simp), exec_predicate_consume (by simp)]; rfl
  | isFault => rw [exec_predicate_consume (by simp), exec_predicate_consume (by simp)]; rfl
  | isInvalid => rw [exec_predicate_consume (by simp), exec_predicate_consume (by simp)]; rfl

/-- Settles O6: the fields of `decodeCW` lie in the used bits, and each command reads its own buses only. -/
theorem unusedFieldsIgnored : Obligations.UnusedFieldsIgnored :=
  ⟨fun _ _ _ hd h => decodeCW_of_usedBits hd h, fun _ _ hd => (decodeCW_cases hd).1,
    fun _ _ _ _ rest hf h => exec_of_sameOperands hf h rest⟩

end Sys2Proof.Proofs
end

section
/-!
PROOFS. A PACK's output: the beat on offer is the next one of `packBeats`, and quiet events stream them in order,
whatever waits lie between.
-/

open Sys2Proof Sys2Proof.Machine

namespace Sys2Proof.Proofs

/-- A PACK byte is the byte of the value at its index, 0 beyond the top of it (R117). -/
theorem packByte_eq_ofNat_div (v i : Opnd) : packByte v i = BitVec.ofNat 8 (v.toNat / 2 ^ (8 * i.toNat)) := by
  have h := congrArg (BitVec.setWidth 8) (packByte_eq_ofNat v i)
  rw [BitVec.setWidth_setWidth_of_le _ (by decide), BitVec.setWidth_eq] at h
  rw [h, BitVec.setWidth_ofNat_of_le (by decide)]
  apply BitVec.eq_of_toNat_eq
  simp

@[simp] theorem packBeats_length (v : Opnd) (len : Nat) : (packBeats v len).length = len := by simp [packBeats]

/-- In PK_OUT the beat on offer is the one of the output that PK_IDX counts to (R117). -/
theorem rspPort_of_packing {s : State} (hf : s.fsm = .pkOut) (ho : s.op = 0x6#4) (he : s.err = .none)
    (hl : s.pkIdx.toNat < s.pkLen.toNat) :
    rspPort s = (packBeats s.pkVal s.pkLen.toNat)[s.pkIdx.toNat]? := by
  have hlast : s.pkIdx = s.pkLen - 1#Config.opndW ↔ s.pkIdx.toNat + 1 = s.pkLen.toNat := eq_pred_iff hl
  rw [rspPort_of_pkOut hf]
  simp [packBeats, rspBody, ho, he, hl, packByte_eq_ofNat_div, hlast, beq_eq_decide]

/-- The state of a PACK's output when its first i bytes are taken and the events `l` are to come. -/
def streamed (s : State) (i : Nat) (l : List Inputs) (framed : Bool) : State :=
  { s with
    pkIdx := BitVec.ofNat _ i
    rspLog := s.rspLog ++ (packBeats s.pkVal s.pkLen.toNat).take i
    inputs := l
    lineFramed := framed }

/-- Before the first byte is taken. -/
theorem streamed_zero {s : State} (h : s.pkIdx = 0) : streamed s 0 s.inputs s.lineFramed = s := by
  have h0 : BitVec.ofNat Config.opndW 0 = s.pkIdx := h.symm
  simp [streamed, h0]

/-- The caller's acts outside SWDC touch the line premise only. -/
theorem noteLine_streamed (s : State) (i : Nat) (l : List Inputs) (b : Bool) :
    ∃ b', noteLine (streamed s i l b) = streamed s i l b' := ⟨_, rfl⟩

/-- The index of a byte of the output fits PK_IDX. -/
theorem toNat_ofNat_of_lt {n : Opnd} {i : Nat} (hi : i < n.toNat) : (BitVec.ofNat Config.opndW i).toNat = i :=
  Nat.mod_eq_of_lt (hi.trans n.isLt)

/-- The index of the last byte of the output. -/
theorem ofNat_eq_pred {n : Opnd} {i : Nat} (hi : i + 1 = n.toNat) : BitVec.ofNat Config.opndW i = n - 1 := by
  have hx := toNat_ofNat_of_lt (n := n) (i := i) (by omega)
  exact (eq_pred_iff (by omega)).mpr (by omega)

/-- A quiet event without rsp_ready leaves the output where it is (R19). -/
theorem step_streamed_held {s : State} (hf : s.fsm = .pkOut) {i : Nat} {e : Inputs} (hq : e.quiet = true)
    (hy : e.rspReady = false) (rest : List Inputs) (b : Bool) :
    ∃ b', step (streamed s i (e :: rest) b) = .next (streamed s i rest b') := by
  obtain ⟨b', hn⟩ := noteLine_streamed s i (e :: rest) b
  refine ⟨b', ?_⟩
  rw [step_quiet (s := streamed s i (e :: rest) b) hq, hn,
    runEvent_held (s := streamed s i (e :: rest) b') (.inr hf) hy]
  rfl

section Taking

variable {s : State} (hf : s.fsm = .pkOut) (ho : s.op = 0x6#4) (he : s.err = .none)
include hf ho he

/-- A byte that is taken is the next one of the output; behind the last one the FSM is IDLE, behind any other
one PK_IDX counts on (R117). -/
theorem step_streamed_taken {i : Nat} (hi : i < s.pkLen.toNat) {e : Inputs} (hq : e.quiet = true)
    (hy : e.rspReady = true) (rest : List Inputs) (b : Bool) :
    ∃ b', step (streamed s i (e :: rest) b) = .next
      (if i + 1 = s.pkLen.toNat then
        { streamed s (i + 1) rest b' with fsm := .idle, pkIdx := BitVec.ofNat _ i }
      else streamed s (i + 1) rest b') := by
  obtain ⟨b', hn⟩ := noteLine_streamed s i (e :: rest) b
  refine ⟨b', ?_⟩
  have hx : (streamed s i (e :: rest) b').pkIdx.toNat = i := toNat_ofNat_of_lt hi
  have hl : (streamed s i (e :: rest) b').pkIdx.toNat < s.pkLen.toNat := hx.symm ▸ hi
  have hlast := eq_pred_iff hl
  rw [hx] at hlast
  have hi' : i < (packBeats s.pkVal s.pkLen.toNat).length := by rwa [packBeats_length]
  have hp : rspPort (streamed s i (e :: rest) b') = some (packBeats s.pkVal s.pkLen.toNat)[i] := by
    rw [rspPort_of_packing (s := streamed s i (e :: rest) b') hf ho he hl, hx]
    exact List.getElem?_eq_getElem hi'
  rw [step_quiet (s := streamed s i (e :: rest) b) hq, hn,
    runEvent_takeByte (s := streamed s i (e :: rest) b') hf hy]
  split
  · next h =>
    rw [packBeat_last hp (hlast.mpr h)]
    simp [streamed, State.consume]
  · next h =>
    rw [packBeat_not_last hp (fun c => h (hlast.mp c))]
    simp [streamed, State.consume, BitVec.ofNat_add]

/-- Quiet events that do not reach the last byte take one byte for each rsp_ready. -/
theorem run_streamed (rest : List Inputs) (es : List Inputs) (hq : ∀ x ∈ es, x.quiet = true) :
    ∀ i b, i + es.countP (fun x => x.rspReady) < s.pkLen.toNat →
    ∃ b', Host.Core.run core es.length (streamed s i (es ++ rest) b) =
      .next (streamed s (i + es.countP (fun x => x.rspReady)) rest b') := by
  induction es with
  | nil => exact fun i b _ => ⟨b, rfl⟩
  | cons e es ih =>
    intro i b hi
    obtain ⟨hqe, hqs⟩ := List.forall_mem_cons.mp hq
    cases hy : e.rspReady with
    | false =>
      rw [List.countP_cons_of_neg (by simp [hy])] at hi ⊢
      obtain ⟨b₁, h₁⟩ := step_streamed_held hf (i := i) hqe hy (es ++ rest) b
      obtain ⟨b₂, h₂⟩ := ih hqs i b₁ hi
      exact ⟨b₂, (run_step _ h₁).trans h₂⟩
    | true =>
      rw [List.countP_cons_of_pos (by simp [hy])] at hi ⊢
      obtain ⟨b₁, h₁⟩ := step_streamed_taken hf ho he (i := i) (by omega) hqe hy (es ++ rest) b
      rw [if_neg (by omega)] at h₁
      obtain ⟨b₂, h₂⟩ := ih hqs (i + 1) b₁ (by omega)
      refine ⟨b₂, (run_step _ h₁).trans ?_⟩
      rw [h₂, Nat.add_right_comm, Nat.add_assoc]

end Taking

/-- Settles O37: `run_streamed` up to the last byte, which `step_streamed_taken` takes. -/
theorem packStreamsLittleEndianBytes : Obligations.PackStreamsLittleEndianBytes := by
  intro s es e rest hf ho he hx hin hqs hq hy hn
  have hc : es.countP (fun x => x.rspReady) < s.pkLen.toNat := by omega
  obtain ⟨b₁, h₁⟩ := run_streamed hf ho he (e :: rest) es hqs 0 s.lineFramed (by omega)
  rw [← hin, streamed_zero hx, Nat.zero_add] at h₁
  obtain ⟨b₂, h₂⟩ := step_streamed_taken hf ho he hc hq hy rest b₁
  rw [if_pos hn] at h₂
  have hrun := (run_append _ 1 _ _ h₁).trans (run_step 0 h₂)
  refine ⟨_, hrun, rfl, rfl, ?_, rfl, rfl, ofNat_eq_pred hn, rfl, rfl, he⟩
  simp only [streamed, hn]
  rw [List.take_of_length_le (packBeats_length _ _).le]

end Sys2Proof.Proofs
end

section
/-!
PROOFS. The encodings: a command word is its fields, a request header is its bits, and the decoder, the encoder, the
opcode table and the header codec agree on them.
-/

open Sys2Proof Sys2Proof.Machine

namespace Sys2Proof.Proofs

/-! ### The fields of a command word (R61) -/

section Fields

variable (bp : Bool) (addr : BitVec 2) (isAp d : Bool) (op : BitVec 4)

@[simp] theorem cwOp_packCW : cwOp (packCW bp addr isAp d op) = op := by
  ext i hi
  interval_cases i <;> simp [cwOp, packCW]

@[simp] theorem cwD_packCW : cwD (packCW bp addr isAp d op) = d := by
  simp [cwD, packCW]

@[simp] theorem cwAp_packCW : cwAp (packCW bp addr isAp d op) = isAp := by
  simp [cwAp, packCW]

@[simp] theorem cwAddr_packCW : cwAddr (packCW bp addr isAp d op) = addr := by
  ext i hi
  interval_cases i <;> simp [cwAddr, packCW]

@[simp] theorem cwBp_packCW : cwBp (packCW bp addr isAp d op) = bp := by
  simp [cwBp, packCW]

@[simp] theorem cwRsv_packCW : cwRsv (packCW bp addr isAp d op) = 0#7 := by
  ext i hi
  interval_cases i <;> simp [cwRsv, packCW]

end Fields

/-- Where RSV is 0, so is every bit from 9 up. -/
theorem getLsbD_of_cwRsv {w : BitVec 16} (h : cwRsv w = 0#7) {i : Nat} (hl : 9 ≤ i) (hi : i < 16) :
    w.getLsbD i = false := by
  have hb : (cwRsv w).getLsbD (i - 9) = false := by rw [h, BitVec.getLsbD_zero]
  rw [cwRsv, BitVec.getLsbD_extractLsb', Nat.add_sub_of_le hl, decide_eq_true (by omega : i - 9 < 7)] at hb
  simpa using hb

/-- A command word with RSV = 0, its bits outside a mask cleared, is packed from the fields the mask leaves. -/
theorem packCW_and {w : BitVec 16} (h : cwRsv w = 0#7) (m : BitVec 16) :
    packCW (cwBp w && cwBp m) (cwAddr w &&& cwAddr m) (cwAp w && cwAp m) (cwD w && cwD m) (cwOp w &&& cwOp m) =
      w &&& m := by
  apply BitVec.eq_of_getLsbD_eq
  intro i hi
  rcases Nat.lt_or_ge i 9 with hl | hl
  · interval_cases i <;> simp [packCW, cwBp, cwAddr, cwAp, cwD, cwOp]
  · rw [getLsbD_of_cwRsv (cwRsv_packCW ..) hl hi, BitVec.getLsbD_and, getLsbD_of_cwRsv h hl hi, Bool.false_and]

/-- A mask that holds a whole field leaves it: ADDR, and OP or a status. -/
@[simp] theorem and_fullAddr (a : BitVec 2) : a &&& 3#2 = a := BitVec.and_allOnes

@[simp] theorem and_fullOp (a : BitVec 4) : a &&& 15#4 = a := BitVec.and_allOnes

section Used

variable {w : BitVec 16} {op : BitVec 4}

/-- The bits BUILD_HEADER and TXN use (R63). -/
theorem packCW_txn (hr : cwRsv w = 0#7) (ho : cwOp w = op) :
    packCW false (cwAddr w) (cwAp w) (cwD w) op = w &&& 0xFEFF#16 := by
  rw [← packCW_and hr, ← ho]
  simp [cwBp, cwAddr, cwAp, cwD, cwOp]

/-- The bits PACK uses (R63). -/
theorem packCW_pack (hr : cwRsv w = 0#7) (ho : cwOp w = op) :
    packCW (cwBp w) 0#2 false false op = w &&& 0xFF0F#16 := by
  rw [← packCW_and hr, ← ho]
  simp [cwBp, cwAddr, cwAp, cwD, cwOp]

/-- The bits every command uses (R63). -/
theorem packCW_op (hr : cwRsv w = 0#7) (ho : cwOp w = op) :
    packCW false 0#2 false false op = w &&& 0xFE0F#16 := by
  rw [← packCW_and hr, ← ho]
  simp [cwBp, cwAddr, cwAp, cwD, cwOp]

end Used

/-! ### The bits of a request header (R65) -/

section Bits

variable (p : Bool) (addr : BitVec 2) (isRead isAp : Bool)

@[simp] theorem parityBit_requestByte : (requestByte p addr isRead isAp)[5] = p := by
  revert p addr isRead isAp
  decide

@[simp] theorem addr_requestByte : (requestByte p addr isRead isAp).extractLsb' 3 2 = addr := by
  revert p addr isRead isAp
  decide

/-- The fixed bits of a request header name its kind (R68). -/
@[simp] theorem requestByte_and_fixed :
    requestByte p addr isRead isAp &&& 0xC7#8 = 0b10000#5 ++ BitVec.ofBool isRead ++ BitVec.ofBool isAp ++ 1#1 := by
  revert p addr isRead isAp
  decide

/-- Parity is all that the bits of a request kind leave to its well-formedness (R66). -/
@[simp] theorem wf_requestByte :
    (headerFields (requestByte p addr isRead isAp)).wf = (p == requestParity isAp isRead addr) := by
  revert p addr isRead isAp
  decide

end Bits

/-- A byte with park 1, stop 0 and start 1 is made of its other bits. -/
theorem requestByte_of_bits {h : BitVec 8} (h0 : h.getLsbD 0 = true) (h6 : h.getLsbD 6 = false)
    (h7 : h.getLsbD 7 = true) :
    requestByte (h.getLsbD 5) (h.extractLsb' 3 2) (h.getLsbD 2) (h.getLsbD 1) = h := by
  apply BitVec.eq_of_getLsbD_eq
  intro i hi
  simp only [requestByte, BitVec.getLsbD_append]
  interval_cases i <;> simp_all

/-! ### Decoding and encoding -/

/-- Settles O1: each decoder reads back the fields its words are packed from (`cwOp_packCW`, `requestByte_and_fixed`
and their neighbours). -/
theorem decodeInvertsEncode : Obligations.DecodeInvertsEncode := by
  intro i
  cases i with
  | isAck | isWait | isFault | isInvalid => decide
  | dpRead p a | dpWrite p a | apRead p a | apWrite p a => simp [encode, decode, decodeRequest]
  | buildHeader a p w | read a p | write a p | pack bp | decodeHeader | parity | packSize =>
    simp [encode, decode, decodeCW]

/-- A command word that decodes is the instruction's word but for the bits it does not use (R63). -/
theorem encode_of_decodeCW {w : BitVec 16} {i : Instr} (hd : decodeCW w = .ok i) :
    encode i = .cw (w &&& usedBits i) := by
  have hr := (decodeCW_cases hd).1
  simp only [decodeCW, hr, ne_eq, not_true_eq_false, if_false] at hd
  split_ifs at hd with h1 h2 h3 hD h4 h5 h6 <;> cases hd
  · exact congrArg _ (packCW_txn hr h1)
  · exact congrArg _ (packCW_op hr h2)
  · have ht := packCW_txn hr h3
    rw [hD] at ht
    exact congrArg _ ht
  · have ht := packCW_txn hr h3
    rw [Bool.eq_false_of_not_eq_true hD] at ht
    exact congrArg _ ht
  · exact congrArg _ (packCW_op hr h4)
  · exact congrArg _ (packCW_op hr h5)
  · exact congrArg _ (packCW_pack hr h6)

/-- A byte that decodes is its request kind's header. -/
theorem encode_of_decodeRequest {h : BitVec 8} {i : Instr} (hd : decodeRequest h = .ok i) : encode i = .request h := by
  obtain ⟨h1, h2, h3, h4⟩ := requestByte_of_fixed h
  simp only [decodeRequest] at hd
  split_ifs at hd with c1 c2 c3 c4 <;> cases hd
  · exact congrArg _ (h1 c1)
  · exact congrArg _ (h2 c2)
  · exact congrArg _ (h3 c3)
  · exact congrArg _ (h4 c4)

/-- A status that decodes is its predicate's status. -/
theorem encode_of_decodeStatus {s : BitVec 4} {i : Instr} (hd : decodeStatus s = .ok i) : encode i = .status s := by
  simp only [decodeStatus] at hd
  split_ifs at hd with c1 c2 c3 c4 <;> cases hd
  · exact congrArg _ c1.symm
  · exact congrArg _ c2.symm
  · exact congrArg _ c3.symm
  · exact congrArg _ c4.symm

/-- Settles O2, format by format. -/
theorem encodeInvertsDecode : Obligations.EncodeInvertsDecode :=
  ⟨fun _ _ => encode_of_decodeCW, fun _ _ => encode_of_decodeRequest, fun _ _ => encode_of_decodeStatus⟩

/-- Settles O5: the ten words, computed. -/
theorem writtenOutWordsDecode : Obligations.WrittenOutWordsDecode := by
  unfold Obligations.WrittenOutWordsDecode
  decide

/-! ### The opcode table (R60) -/

/-- The family `RowMatches` as one statement. -/
theorem matchesWord_encode : ∀ i : Instr, (opcodeRow i).matchesWord (encode i) = true
  | .buildHeader a p w => Laws.RowMatches.buildHeader a p w
  | .decodeHeader => Laws.RowMatches.decodeHeader
  | .read a p => Laws.RowMatches.read a p
  | .write a p => Laws.RowMatches.write a p
  | .parity => Laws.RowMatches.parity
  | .packSize => Laws.RowMatches.packSize
  | .pack bp => Laws.RowMatches.pack bp
  | .dpRead p a => Laws.RowMatches.dpRead p a
  | .dpWrite p a => Laws.RowMatches.dpWrite p a
  | .apRead p a => Laws.RowMatches.apRead p a
  | .apWrite p a => Laws.RowMatches.apWrite p a
  | .isAck => Laws.RowMatches.isAck
  | .isWait => Laws.RowMatches.isWait
  | .isFault => Laws.RowMatches.isFault
  | .isInvalid => Laws.RowMatches.isInvalid

/-- The bits a row fixes are bits its instructions use. -/
theorem matchesWord_and_usedBits (i : Instr) (w : BitVec 16) :
    (opcodeRow i).matchesWord (.cw (w &&& usedBits i)) = (opcodeRow i).matchesWord (.cw w) := by
  cases i <;> simp [opcodeRow, OpcodeRow.matchesWord, usedBits, BitVec.and_assoc]

/-- What decodes has its row's fixed bits: encoding it gives them, and the ignored bits are none of them. -/
theorem matchesWord_of_decode {c : CodeWord} {i : Instr} (hd : decode c = .ok i) :
    (opcodeRow i).matchesWord c = true := by
  have hi := matchesWord_encode i
  cases c with
  | cw w => rwa [encode_of_decodeCW hd, matchesWord_and_usedBits] at hi
  | request h => rwa [encode_of_decodeRequest hd] at hi
  | status s => rwa [encode_of_decodeStatus hd] at hi

/-- A command word with the fixed bits of a row has its RSV and OP. -/
theorem rsv_op_of_fixed {w m pat : BitVec 16} (h : (w &&& m == pat) = true) (hp : pat &&& m = pat)
    (hm : m.extractLsb' 9 7 = BitVec.allOnes 7 ∧ m.extractLsb' 0 4 = BitVec.allOnes 4) :
    cwRsv w = cwRsv pat ∧ cwOp w = cwOp pat :=
  have he : w &&& m = pat &&& m := (beq_iff_eq.mp h).trans hp.symm
  ⟨extractLsb'_of_and_eq he 9 7 hm.1, extractLsb'_of_and_eq he 0 4 hm.2⟩

/-- The D bit too, where the row fixes it. -/
theorem d_of_fixed {w m pat : BitVec 16} (h : (w &&& m == pat) = true) (hp : pat &&& m = pat)
    (hm : m.getLsbD 4 = true) : cwD w = cwD pat :=
  getLsbD_of_and_eq ((beq_iff_eq.mp h).trans hp.symm) 4 hm

/-- A row fixes RSV and OP, and D for TXN: all that `decodeCW` looks at. -/
theorem decodeCW_of_matchesWord {w : BitVec 16} {i : Instr} (h : (opcodeRow i).matchesWord (.cw w) = true) :
    ∃ j, decodeCW w = .ok j ∧ opcodeRow j = opcodeRow i := by
  cases i with
  | buildHeader | decodeHeader | parity | packSize | pack =>
    obtain ⟨hr, ho⟩ := rsv_op_of_fixed h (by decide) (by decide)
    simp +decide [decodeCW, hr, ho, opcodeRow]
  | read | write =>
    obtain ⟨hr, ho⟩ := rsv_op_of_fixed h (by decide) (by decide)
    have hd := d_of_fixed h (by decide) (by decide)
    simp +decide [decodeCW, hr, ho, hd, opcodeRow]
  | _ => cases h

/-- `decodeRequest` tests the fixed bits themselves. -/
theorem decodeRequest_of_matchesWord {b : BitVec 8} {i : Instr} (h : (opcodeRow i).matchesWord (.request b) = true) :
    ∃ j, decodeRequest b = .ok j ∧ opcodeRow j = opcodeRow i := by
  cases i with
  | dpRead | dpWrite | apRead | apWrite =>
    have hb := beq_iff_eq.mp h
    simp [decodeRequest, hb, opcodeRow]
  | _ => cases h

/-- A status row fixes all four bits. -/
theorem decodeStatus_of_matchesWord {s : BitVec 4} {i : Instr} (h : (opcodeRow i).matchesWord (.status s) = true) :
    ∃ j, decodeStatus s = .ok j ∧ opcodeRow j = opcodeRow i := by
  cases i with
  | isAck | isWait | isFault | isInvalid =>
    have hs := beq_iff_eq.mp h
    rw [and_fullOp] at hs
    simp [decodeStatus, hs, opcodeRow]
  | _ => cases h

/-- Settles O3, the second half format by format. -/
theorem decoderFollowsOpcodeTable : Obligations.DecoderFollowsOpcodeTable := by
  refine ⟨fun _ _ => matchesWord_of_decode, fun c i h => ?_⟩
  cases c with
  | cw w => exact decodeCW_of_matchesWord h
  | request b => exact decodeRequest_of_matchesWord h
  | status s => exact decodeStatus_of_matchesWord h

/-! ### The header codec (R66, R67) -/

/-- The constant bits of a well-formed header, and its parity bit. -/
theorem wf_iff_bits (h : BitVec 8) :
    (headerFields h).wf = true ↔ h.getLsbD 0 = true ∧ h.getLsbD 6 = false ∧ h.getLsbD 7 = true ∧
      h.getLsbD 5 = requestParity (h.getLsbD 1) (h.getLsbD 2) (h.extractLsb' 3 2) := by
  simp [headerFields, requestParity, and_assoc]

/-- A header is well formed exactly when its request kind is. -/
theorem wf_of_encode {h : BitVec 8} {i : Instr} (he : encode i = .request h) :
    (headerFields h).wf = i.wellFormed := by
  cases i with
  | dpRead p a | dpWrite p a | apRead p a | apWrite p a => cases he; exact wf_requestByte ..
  | _ => cases he

/-- RnW and APnDP choose the request kind. -/
theorem exists_encode_eq_requestByte (p : Bool) (addr : BitVec 2) :
    ∀ isRead isAp, ∃ i, encode i = .request (requestByte p addr isRead isAp)
  | true, false => ⟨.dpRead p addr, rfl⟩
  | false, false => ⟨.dpWrite p addr, rfl⟩
  | true, true => ⟨.apRead p addr, rfl⟩
  | false, true => ⟨.apWrite p addr, rfl⟩

/-- Settles O4: a well-formed header is a request kind's word, which O1 decodes. -/
theorem requestKindsAreHeaders : Obligations.RequestKindsAreHeaders := by
  intro h
  constructor
  · intro hw
    obtain ⟨h0, h6, h7, -⟩ := (wf_iff_bits h).mp hw
    obtain ⟨i, hi⟩ := exists_encode_eq_requestByte (h.getLsbD 5) (h.extractLsb' 3 2) (h.getLsbD 2) (h.getLsbD 1)
    rw [requestByte_of_bits h0 h6 h7] at hi
    have hd : decode (.request h) = .ok i := hi ▸ decodeInvertsEncode i
    exact ⟨i, hd, wf_of_encode hi ▸ hw⟩
  · rintro ⟨i, hd, hw⟩
    rw [wf_of_encode (encode_of_decodeRequest hd), hw]

/-- An encoded header is the request byte whose parity bit meets its constraint. -/
theorem encodeHeader_eq_requestByte (a : BitVec 2) (p w : Bool) :
    encodeHeader a p w = requestByte (requestParity p (!w) a) a (!w) p := by
  revert a p w
  decide

/-- A well-formed header is encoded from its fields. -/
theorem encodeHeader_headerFields {h : BitVec 8} (hw : (headerFields h).wf = true) :
    encodeHeader (headerFields h).addr (headerFields h).isAp (headerFields h).isWrite = h := by
  obtain ⟨h0, h6, h7, hp⟩ := (wf_iff_bits h).mp hw
  simp only [encodeHeader_eq_requestByte, headerFields, Bool.not_not, ← hp, requestByte_of_bits h0 h6 h7]

/-- The fields of an encoded header are read back, so they are determined by it. -/
theorem encodeHeader_injective {a a' : BitVec 2} {p p' w w' : Bool}
    (h : encodeHeader a p w = encodeHeader a' p' w') : a = a' ∧ p = p' ∧ w = w' := by
  have hf := congrArg headerFields h
  simpa [headerFields_encodeHeader] using hf

/-- The well-formed bytes are the image of the header encoder. -/
theorem wf_iff_exists_encodeHeader (h : BitVec 8) :
    (headerFields h).wf = true ↔ ∃ a p w, encodeHeader a p w = h := by
  refine ⟨fun hw => ⟨_, _, _, encodeHeader_headerFields hw⟩, ?_⟩
  rintro ⟨a, p, w, rfl⟩
  rw [headerFields_encodeHeader]

/-- Settles O13: the header's fields are read back, and the sixteen bytes are computed. -/
theorem headerImage : Obligations.HeaderImage := by
  refine ⟨fun _ _ _ _ _ _ => encodeHeader_injective, fun h => ⟨fun hw => ?_, fun hm => ?_⟩,
    wf_iff_exists_encodeHeader, fun _ => encodeHeader_headerFields⟩
  · obtain ⟨a, p, w, rfl⟩ := (wf_iff_exists_encodeHeader h).mp hw
    clear hw
    revert a p w
    decide
  · revert h
    decide

end Sys2Proof.Proofs
end

section
/-!
PROOFS. The header codec and its two commands: what a built header's bits are, and what BUILD_HEADER and DECODE_HEADER
do in IDLE.
-/

open Sys2Proof Sys2Proof.Machine

namespace Sys2Proof.Proofs

/-- Settles O12: an encoded header is well formed, which gives its constant bits, and its parity bit is that of the
request byte it is. -/
theorem headerRoundTrip : Obligations.HeaderRoundTrip := by
  intro addr isAp isWrite
  have hf := headerFields_encodeHeader addr isAp isWrite
  obtain ⟨h0, h6, h7, -⟩ := (wf_iff_bits _).mp (congrArg HeaderFields.wf hf)
  refine ⟨hf, h0, h6, h7, ?_⟩
  simp [encodeHeader_eq_requestByte, requestParity]

/-! ### The fields of RES_DEC (R79) -/

section Decoded

variable (f : HeaderFields)

theorem addr_decWord : (decWord f).extractLsb' 0 2 = f.addr :=
  BitVec.extractLsb'_append_eq_right

theorem isAp_decWord : (decWord f).getLsbD 2 = f.isAp := by
  simp only [decWord, BitVec.getLsbD_append]
  simp

theorem isWrite_decWord : (decWord f).getLsbD 3 = f.isWrite := by
  simp only [decWord, BitVec.getLsbD_append]
  simp

theorem wf_decWord : (decWord f).getLsbD 4 = f.wf := by
  simp only [decWord, BitVec.getLsbD_append]
  simp

end Decoded

/-- The well-formed bytes are the numbers of rule R76. -/
theorem wf_iff_exists_headerNumber (h : BitVec 8) :
    (headerFields h).wf = true ↔ ∃ a p w, h = BitVec.ofNat 8 (headerNumber a p w) := by
  simp only [wf_iff_exists_encodeHeader, encodeHeader_eq_headerNumber, eq_comm (b := h)]

/-! ### The two commands in IDLE (R78, R79) -/

theorem exec_buildHeader_idle {s : State} (hf : s.fsm = .idle) (a : BitVec 2) (p w : Bool) :
    exec (.buildHeader a p w) s = .next (emit { s with op := 0x1, resHdr := encodeHeader a p w, err := .none }) := by
  rw [exec, execBuildHeader, atCommandBeat_idle _ hf]

theorem exec_decodeHeader_idle {s : State} (hf : s.fsm = .idle) :
    exec .decodeHeader s =
      .next (emit { s with op := 0x2, resDec := decWord (headerFields s.now.cmdHdr), err := .none }) := by
  rw [exec, execDecodeHeader, atCommandBeat_idle _ hf]

/-- Settles O14: the header built is the number of rule R76, and RSP offers it. -/
theorem buildHeaderCompletes : Obligations.BuildHeaderCompletes := by
  intro s addr isAp isWrite hf
  rw [← encodeHeader_eq_headerNumber]
  exact ⟨_, exec_buildHeader_idle hf addr isAp isWrite, rfl, rspPort_of_rsp rfl⟩

/-- Settles O15: RES_DEC holds the fields of the byte, and WF says that it is a number of rule R76. -/
theorem decodeHeaderCompletes : Obligations.DecodeHeaderCompletes := by
  intro s hf
  have hwf := (Bool.eq_iff_iff.mp (wf_decWord _)).trans (wf_iff_exists_headerNumber s.now.cmdHdr)
  exact ⟨_, exec_decodeHeader_idle hf, rfl, rspPort_of_rsp rfl, addr_decWord _, isAp_decWord _, isWrite_decWord _, hwf⟩

end Sys2Proof.Proofs
end

section
/-!
PROOFS. READ and WRITE as the sequential functions of rules R86 and R93: one request and its answer at a time, the
exchanges of a transaction do what the sequential function says, whatever waits lie between.
-/

open Sys2Proof Sys2Proof.Machine

namespace Sys2Proof.Proofs

/-! ### One request of a sequential function -/

/-- The state with no request outstanding, `log` the transport's events and `l` the events to come. -/
def between (s : State) (log : List TpEvent) (l : List Inputs) (framed : Bool) : State :=
  { s with tpTaken := false, tpLog := log, inputs := l, lineFramed := framed }

/-- An answered request looks at the registers only. -/
theorem advance_between (a : TpAnswer) (s : State) (log : List TpEvent) (l : List Inputs) (b : Bool) :
    advance a (between s log l b) = between (advance a s) log l b := by
  cases hf : s.fsm
  case rData => by_cases hk : s.ackRaw = 0b001#3 <;> simp [advance, between, afterData, complete, emit, hf, hk]
  all_goals simp [advance, between, afterParity, complete, emit, hf]

/-- From `s`, with the transport events `log` behind it, any exchanges that deliver the answers the sequential
function `seq` uses up lead to its end as `Ended` says, with exactly its events. -/
def Refines (Ended : TxnEnd → State → Prop) (s : State) (log : List TpEvent)
    (seq : List TpAnswer → Option TxnRun) : Prop :=
  ∀ xs answers rest past run b, delivered xs answers = true → seq answers = some run → run.unused = [] →
    ∃ t b', Host.Core.run core (exchangeEvents xs).length
        (between s (past ++ log) (exchangeEvents xs ++ rest) b) =
          .next (between t (past ++ run.events) rest b') ∧ Ended run.ending t

variable {Ended : TxnEnd → State → Prop} {s : State} {log : List TpEvent}

/-- No more answers are delivered by no more exchanges. -/
theorem eq_nil_of_delivered_nil {xs : List Exchange} (h : delivered xs [] = true) : xs = [] := by
  cases xs with
  | nil => rfl
  | cons x xs => simp [delivered] at h

/-- One request: an answer with an error ends the transaction, any other goes on with the next state (R99). -/
theorem refines_ask {r : TpReq} {k : TpAnswer → List TpEvent → List TpAnswer → Option TxnRun}
    (hf : s.fsm.inTxn = true) (hr : stateRequest s = some r) (hfail : ∀ c, Ended (.aborted c) (abort c s))
    (hok : ∀ a, Refines Ended (advance a s) (log ++ [.request r, answerEvent r a])
      (k a (log ++ [.request r, answerEvent r a]))) :
    Refines Ended s log fun answers => ask r log answers k := by
  intro xs answers rest past run b hd hs hu
  cases answers with
  | nil => cases hs
  | cons a as =>
    obtain ⟨x, ys, rfl, hx, hys⟩ := delivered_cons hd
    have hin : exchangeEvents (x :: ys) ++ rest = x.events ++ (exchangeEvents ys ++ rest) := by
      simp [exchangeEvents]
    have hlen : (exchangeEvents (x :: ys)).length = x.events.length + (exchangeEvents ys).length := by
      simp [exchangeEvents]
    obtain ⟨b₁, h₁⟩ := run_exchange
      (s := between s (past ++ log) (exchangeEvents (x :: ys) ++ rest) b) hf rfl hr hin hx
    rw [hlen, run_append _ _ _ _ h₁]
    cases he : a.err with
    | true =>
      simp only [ask, he, if_true, Option.some.injEq] at hs
      subst hs
      cases (show as = [] from hu)
      cases eq_nil_of_delivered_nil hys
      refine ⟨abort a.errCode s, false, ?_, hfail _⟩
      simp [Host.Core.run, exchangeEvents, answerEvent, between, abort, raise, emit, he]
    | false =>
      simp only [ask, he, Bool.false_eq_true, if_false] at hs
      obtain ⟨t, b', h, hend⟩ := hok a ys as rest past run b₁ hys hs hu
      refine ⟨t, b', ?_, hend⟩
      rw [← h, ← advance_between, ← List.append_assoc]
      rfl

/-- The end of a sequential function needs no exchange. -/
theorem refines_finish {st : BitVec 4} {d : Option Data} (h : Ended (.completed st d) s) :
    Refines Ended s log (finish st d log) := by
  intro xs answers rest past run b hd hs hu
  cases hs
  cases (show answers = [] from hu)
  cases eq_nil_of_delivered_nil hd
  exact ⟨s, b, rfl, h⟩

end Sys2Proof.Proofs
end

section
/-!
PROOFS. READ and WRITE from their command beat to their end: the tables of rules R85 and R92 do the requests of the
sequential functions, and what each way to end leaves unchanged.
-/

open Sys2Proof Sys2Proof.Machine

namespace Sys2Proof.Proofs

/-! ### Request by request -/

/-- The state of a transaction begun in `s` that has come to `f`: what it may have written on the way (R85, R92). -/
def inPhase (s : State) (f : Fsm) (off : Off) (code : BitVec 3) (d : Data) : State :=
  { s with fsm := f, ackOff := off, ackRaw := code, rdata := d }

/-- A transaction begins in its header state. -/
theorem inPhase_self {s : State} {f : Fsm} (hf : s.fsm = f) : inPhase s f s.ackOff s.ackRaw s.rdata = s := by
  simp [inPhase, ← hf]

/-- How a READ begun in `s` ends: PBIT changes only under ACK (R90, R98, R99). -/
inductive ReadEnd (s : State) : TxnEnd → State → Prop
  | aborted (c f off code d) : ReadEnd s (.aborted c) (abort c (inPhase s f off code d))
  | completed (st off code d b) : st = 0x1#4 ∨ st = 0xF#4 ∨ b = s.pbit →
      ReadEnd s (.completed st (some d)) (complete st (some d) { inPhase s .rPar off code d with pbit := b })

/-- How a WRITE begun in `s` ends (R98, R99). -/
inductive WriteEnd (s : State) : TxnEnd → State → Prop
  | aborted (c f off) : WriteEnd s (.aborted c) (abort c (inPhase s f off s.ackRaw s.rdata))
  | completed (st off code) :
      WriteEnd s (.completed st none) (complete st none (inPhase s .wStat off code s.rdata))

/-- The acknowledge code is the low three bits of a status read (R69). -/
theorem ackCode_eq (a : TpAnswer) : ackCode a = a.value.extractLsb' 0 3 := by
  ext i hi
  simp [ackCode, readBits]

theorem readBits_one (a : TpAnswer) : readBits 1 a = a.value.extractLsb' 0 1 := by
  ext i hi
  simp [readBits]

theorem readBits_all (a : TpAnswer) : readBits 32 a = a.value := by
  simp [readBits]

variable {s : State}

/-- The answered data read: the parity read follows on ACK only (R89, R91). -/
theorem advance_rData (a : TpAnswer) (off : Off) (code : BitVec 3) (d : Data) :
    advance a (inPhase s .rData off code d) =
      if code = 0b001#3 then inPhase s .rPar off code a.value
      else complete (ackStatus code) (some a.value) (inPhase s .rData off code a.value) := by
  rw [← readBits_all a]
  rfl

/-- The answered parity read (R90). -/
theorem advance_rPar (a : TpAnswer) (off : Off) (code : BitVec 3) (d : Data) :
    advance a (inPhase s .rPar off code d) = complete (parityStatus (parity32 d) (a.value.extractLsb' 0 1)) (some d)
      { inPhase s .rPar off code d with pbit := a.value.extractLsb' 0 1 } := by
  rw [← readBits_one]
  rfl

/-- A READ with ACK from R_PAR on: the status is that of the parity check (R90). -/
theorem refines_parityRead (off : Off) (code : BitVec 3) (d : Data) (log : List TpEvent) :
    Refines (ReadEnd s) (inPhase s .rPar off code d) log fun answers =>
      ask (.read (off + 35) 1) log answers fun b log answers =>
      if parity32 d ≠ b.value.extractLsb' 0 1 then finish 0xF#4 (some d) log answers
      else finish 0x1#4 (some d) log answers := by
  refine refines_ask rfl rfl (fun c => .aborted c _ _ _ _) fun b => ?_
  rw [advance_rPar]
  by_cases hp : parity32 d = b.value.extractLsb' 0 1
  · simp only [parityStatus, hp, ne_eq, not_true_eq_false, if_true, if_false]
    exact refines_finish (.completed _ _ _ _ _ (.inl rfl))
  · simp only [parityStatus, hp, ne_eq, not_false_eq_true, if_true, if_false]
    exact refines_finish (.completed _ _ _ _ _ (.inr (.inl rfl)))

/-- READ refines its sequential function: the table of R85. -/
theorem refines_seqRead (hf : s.fsm = .rHdr) : Refines (ReadEnd s) s [] (seqRead s.hdr) := by
  rw [← inPhase_self hf]
  refine refines_ask rfl rfl (fun c => .aborted c _ _ _ _) fun _ => ?_
  refine refines_ask (s := inPhase s .rAck s.ackOff s.ackRaw s.rdata) rfl rfl
    (fun c => .aborted c _ _ _ _) fun ack => ?_
  refine refines_ask (s := inPhase s .rWin ack.offset s.ackRaw s.rdata) rfl rfl
    (fun c => .aborted c _ _ _ _) fun _ => ?_
  refine refines_ask (s := inPhase s .rTrl ack.offset s.ackRaw s.rdata) rfl rfl
    (fun c => .aborted c _ _ _ _) fun _ => ?_
  refine refines_ask (s := inPhase s .rStat ack.offset s.ackRaw s.rdata) rfl rfl
    (fun c => .aborted c _ _ _ _) fun st => ?_
  refine refines_ask (s := inPhase s .rData ack.offset (ackCode st) s.rdata) rfl rfl
    (fun c => .aborted c _ _ _ _) fun d => ?_
  rw [advance_rData, ← ackCode_eq]
  by_cases hc : ackCode st = 0b001#3
  · simp only [hc, if_true]
    exact refines_parityRead ack.offset 0b001#3 d.value _
  · simp only [hc, if_false]
    exact refines_finish (.completed _ ack.offset (ackCode st) _ s.pbit (.inr (.inr rfl)))

/-- WRITE refines its sequential function: the table of R92. -/
theorem refines_seqWrite (hf : s.fsm = .wHdr) : Refines (WriteEnd s) s [] (seqWrite s.hdr s.wdata) := by
  rw [← inPhase_self hf]
  refine refines_ask rfl rfl (fun c => .aborted c _ _) fun _ => ?_
  refine refines_ask (s := inPhase s .wAck s.ackOff s.ackRaw s.rdata) rfl rfl (fun c => .aborted c _ _) fun ack => ?_
  refine refines_ask (s := inPhase s .wTrn ack.offset s.ackRaw s.rdata) rfl rfl (fun c => .aborted c _ _) fun _ => ?_
  refine refines_ask (s := inPhase s .wData ack.offset s.ackRaw s.rdata) rfl rfl (fun c => .aborted c _ _) fun _ => ?_
  refine refines_ask (s := inPhase s .wPar ack.offset s.ackRaw s.rdata) rfl rfl (fun c => .aborted c _ _) fun _ => ?_
  refine refines_ask (s := inPhase s .wStat ack.offset s.ackRaw s.rdata) rfl rfl (fun c => .aborted c _ _) fun st => ?_
  rw [← ackCode_eq]
  exact refines_finish (.completed _ ack.offset (ackCode st))

/-! ### The whole transaction -/

theorem exec_read_idle (hf : s.fsm = .idle) (a : BitVec 2) (p : Bool) :
    exec (.read a p) s = .next (startTxn a p false s) := by
  rw [exec, execRead, atCommandBeat_idle _ hf]

theorem exec_write_idle (hf : s.fsm = .idle) (a : BitVec 2) (p : Bool) :
    exec (.write a p) s = .next (startTxn a p true s) := by
  rw [exec, execWrite, atCommandBeat_idle _ hf]

/-- The command beat of a TXN as a step: the transaction begins, nothing is outstanding (R82). -/
theorem step_startTxn {i : Instr} {a : BitVec 2} {p w : Bool} {e : Inputs} {l : List Inputs} (hf : s.fsm = .idle)
    (hin : s.inputs = e :: l) (hq : e.quiet = true) (hv : e.cmdValid = true) (hd : decodeCW e.cmdWord = .ok i)
    (hx : exec i (noteLine s) = .next (startTxn a p w (noteLine s))) :
    ∃ b, step s = .next (between (startTxn a p w s) s.tpLog l b) := by
  have hn : s.now = e := now_of_inputs hin
  have hw : fetchWord s = some (.cw e.cmdWord) := by simp [fetchWord, hf, hn, hv]
  refine ⟨(noteLine s).lineFramed, ?_⟩
  rw [stepRunsDecodedInstruction s _ i (hn ▸ hq) hw hd, hx, andThen_next, if_neg (by simp [hf])]
  rw [show (startTxn a p w (noteLine s)).inputs.tail = l from congrArg List.tail hin]
  rfl

/-- A transaction from IDLE: its command beat, then what its sequential function says. -/
theorem run_transaction {Ended : State → TxnEnd → State → Prop} {seq : List TpAnswer → Option TxnRun}
    {u : State} {b : Bool} {xs : List Exchange} {rest : List Inputs} {answers : List TpAnswer} {run : TxnRun}
    (hs : step s = .next (between u s.tpLog (exchangeEvents xs ++ rest) b)) (hr : Refines (Ended u) u [] seq)
    (hd : delivered xs answers = true) (hrun : seq answers = some run) (hu : run.unused = []) :
    ∃ t b', Host.Core.run core (1 + (exchangeEvents xs).length) s =
      .next (between t (s.tpLog ++ run.events) rest b') ∧ Ended u run.ending t := by
  obtain ⟨t, b', h, hend⟩ := hr xs answers rest s.tpLog run b hd hrun hu
  rw [List.append_nil] at h
  exact ⟨t, b', by rw [Nat.add_comm, run_step _ hs, h], hend⟩

/-- Settles O18: `refines_seqRead` after the command beat, and the frame of each way a READ ends. -/
theorem readRunsSequentially : Obligations.ReadRunsSequentially := by
  rintro s e addr isAp xs answers rest ⟨events, ending, unused⟩ hf hin hq hv hd hdel hrun hu
  obtain ⟨b, hs⟩ := step_startTxn hf hin hq hv hd (exec_read_idle (s := noteLine s) hf addr isAp)
  obtain ⟨t, b', h, hend⟩ := run_transaction hs (refines_seqRead rfl) hdel hrun hu
  cases hend with
  | aborted c f off code d =>
    exact ⟨_, h, rfl, rfl, rfl, rfl, rfl, rfl, rfl, rfl, rfl, rfl, rfl, rfl, rfl, rfl, rfl, rfl, rfl,
      by simp, .inr rfl⟩
  | completed st off code d b hb =>
    refine ⟨_, h, rfl, rfl, rfl, rfl, rfl, rfl, rfl, rfl, rfl, rfl, rfl, rfl, rfl, rfl, rfl, rfl, rfl, ?_, ?_⟩
    · rintro _ _ ⟨⟩
      exact ⟨rfl, rfl⟩
    · rcases hb with rfl | rfl | rfl
      · exact .inl ⟨_, .inl rfl⟩
      · exact .inl ⟨_, .inr rfl⟩
      · exact .inr rfl

/-- Settles O19: `refines_seqWrite` after the command beat, and the frame of each way a WRITE ends. -/
theorem writeRunsSequentially : Obligations.WriteRunsSequentially := by
  rintro s e addr isAp xs answers rest ⟨events, ending, unused⟩ hf hin hq hv hd hdel hrun hu
  obtain ⟨b, hs⟩ := step_startTxn hf hin hq hv hd (exec_write_idle (s := noteLine s) hf addr isAp)
  cases now_of_inputs hin
  obtain ⟨t, b', h, hend⟩ := run_transaction hs (refines_seqWrite rfl) hdel hrun hu
  cases hend with
  | aborted c f off =>
    exact ⟨_, h, rfl, rfl, rfl, rfl, rfl, rfl, rfl, rfl, rfl, rfl, rfl, rfl, rfl, rfl, rfl, rfl, rfl, rfl, by simp⟩
  | completed st off code =>
    exact ⟨_, h, rfl, rfl, rfl, rfl, rfl, rfl, rfl, rfl, rfl, rfl, rfl, rfl, rfl, rfl, rfl, rfl, rfl, rfl,
      fun _ _ _ => rfl⟩

end Sys2Proof.Proofs
end

section
/-!
PROOFS. One event of a transport request, case by case: the header phase of the four request kinds, the abort of a
failed request, and where INVALID comes from.
-/

open Sys2Proof Sys2Proof.Machine

namespace Sys2Proof.Proofs

/-! ### One event of a transport request (R22, R23, R99) -/

section Beat

variable {s : State} (r : TpReq) (onOk : TpAnswer → State → State) {a : TpAnswer}

theorem transportBeat_takes (ht : s.tpTaken = false) (hr : s.now.tpReqReady = true) :
    transportBeat r onOk s = logTp (.request r) { s with tpTaken := true } := by
  simp [transportBeat, ht, hr]

theorem transportBeat_notReady (ht : s.tpTaken = false) (hr : s.now.tpReqReady = false) :
    transportBeat r onOk s = s := by
  simp [transportBeat, ht, hr]

theorem transportBeat_unanswered (ht : s.tpTaken = true) (ha : s.now.answer = none) :
    transportBeat r onOk s = s := by
  simp [transportBeat, ht, ha]

theorem transportBeat_answered (ht : s.tpTaken = true) (ha : s.now.answer = some a) (he : a.err = false) :
    transportBeat r onOk s = onOk a (logTp (answerEvent r a) { s with tpTaken := false }) := by
  simp [transportBeat, ht, ha, he]

theorem transportBeat_failed (ht : s.tpTaken = true) (ha : s.now.answer = some a) (he : a.err = true) :
    transportBeat r onOk s = abort a.errCode (logTp (.failed a.errCode) { s with tpTaken := false }) := by
  simp [transportBeat, answerEvent, ht, ha, he]

end Beat

/-! ### The header phase (R68, R85, R92) -/

/-- A request header as one number (R65). -/
theorem setWidth_requestByte (p : Bool) (addr : BitVec 2) (isRead isAp : Bool) :
    (requestByte p addr isRead isAp).setWidth 32 =
      BitVec.ofNat 32 (0x81 + 4 * isRead.toNat + 2 * isAp.toNat + 8 * addr.toNat + 32 * p.toNat) := by
  revert p addr isRead isAp
  decide

/-- In the header phase a request kind is one event of the request for its header's eight bits. -/
theorem exec_requestKind {s : State} (hf : s.fsm = .rHdr ∨ s.fsm = .wHdr) {p : Bool} {addr : BitVec 2} {i : Instr}
    {h : Nat} (hi : (i, h) ∈ [(Instr.dpRead p addr, (0x85 : Nat)), (.dpWrite p addr, 0x81), (.apRead p addr, 0x87),
      (.apWrite p addr, 0x83)]) :
    exec i s = .next
      (transportBeat (.write (BitVec.ofNat 32 (h + 8 * addr.toNat + 32 * p.toNat)) 8 .host) advance s) := by
  have hb : ∀ b : BitVec 8, headerBeat b s = transportBeat (.write (b.setWidth 32) 8 .host) advance s :=
    fun b => if_pos hf
  simp only [List.mem_cons, Prod.mk.injEq, List.not_mem_nil, or_false] at hi
  rcases hi with ⟨rfl, rfl⟩ | ⟨rfl, rfl⟩ | ⟨rfl, rfl⟩ | ⟨rfl, rfl⟩
  · rw [exec, execDpRead, hb, setWidth_requestByte]; rfl
  · rw [exec, execDpWrite, hb, setWidth_requestByte]; rfl
  · rw [exec, execApRead, hb, setWidth_requestByte]; rfl
  · rw [exec, execApWrite, hb, setWidth_requestByte]; rfl

/-- The header phase ends in the acknowledge state of its direction. -/
theorem advance_header (a : TpAnswer) {s : State} (hf : s.fsm = .rHdr ∨ s.fsm = .wHdr) :
    advance a s = { s with fsm := if s.fsm = .rHdr then .rAck else .wAck } := by
  rcases hf with hf | hf <;> simp [advance, hf]

/-- Settles O17: the five events of `exec_requestKind`'s request. -/
theorem requestHeaderIsSent : Obligations.RequestHeaderIsSent := by
  intro s p addr i h hf hi
  rw [exec_requestKind hf hi]
  refine ⟨fun ht hr => ?_, fun ht hr => ?_, fun a ht ha he => ?_, fun a ht ha he => ?_, fun ht ha => ?_⟩
  · rw [transportBeat_takes _ _ ht hr]; rfl
  · rw [transportBeat_notReady _ _ ht hr]
  · rw [transportBeat_answered _ _ ht ha he, advance_header (s := logTp _ { s with tpTaken := false }) a hf]
    simp [logTp, answerEvent, he]
  · rw [transportBeat_failed _ _ ht ha he]; rfl
  · rw [transportBeat_unanswered _ _ ht ha]

/-! ### The abort (R99) -/

/-- A failed request aborts the transaction, whatever its state. -/
theorem transactionBeat_failed {s : State} {a : TpAnswer} (hf : s.fsm.inTxn = true) (ht : s.tpTaken = true)
    (ha : s.now.answer = some a) (he : a.err = true) :
    transactionBeat s = abort a.errCode (logTp (.failed a.errCode) { s with tpTaken := false }) := by
  obtain ⟨r, hr⟩ := Option.isSome_iff_exists.mp ((isSome_stateRequest s).trans hf)
  rw [transactionBeat_eq_requestBeat hr]
  exact transportBeat_failed r advance ht ha he

/-- A taken beat of RSP leads to IDLE and leaves the transaction's registers (O31). -/
theorem step_of_taken {s : State} (hf : s.fsm = .rsp) (hq : s.now.quiet = true) (hr : s.now.rspReady = true) :
    ∃ t, step s = .next t ∧ t.fsm = .idle ∧ t.respValid = s.respValid ∧ t.err = s.err ∧
      t.tpLog = s.tpLog := by
  obtain ⟨t, ht, -, htake⟩ := responseBeatIsHeld s (.inl hf) hq
  obtain ⟨-, hrsp, -⟩ := htake hr
  rw [hrsp hf] at ht
  exact ⟨_, ht, rfl, rfl, rfl, rfl⟩

/-- Settles O20: the step is the abort, and its error beat is taken like any other. -/
theorem transportErrorAborts : Obligations.TransportErrorAborts := by
  intro s a hi hf ht hq ha he
  obtain ⟨ho, hv⟩ := hi.running hf
  have hs := step_txn hf hq
  rw [transactionBeat_failed (s := noteLine s) hf ht ha he] at hs
  refine ⟨_, hs, rfl, hv, rfl, ?_, fun hq' hr' => ?_⟩
  · rw [rspPort_of_rsp rfl]
    simp [rspBody, ho]
  · obtain ⟨u, hu, h1, h2, h3, h4⟩ := step_of_taken rfl hq' hr'
    exact ⟨u, hu, h1, h2.trans hv, h3, h4⟩

/-! ### INVALID (R90, R70) -/

/-- An acknowledge code is never INVALID: its bit 3 is clear. -/
theorem ackStatus_ne_invalid (c : BitVec 3) : ackStatus c ≠ 0xF#4 := by
  revert c
  decide

/-- A transport beat whose response is INVALID is the answer to a mismatching parity read, or found it there. -/
theorem transactionBeat_invalid {s : State} (hf : s.fsm.inTxn = true) (hv : (transactionBeat s).respValid = true)
    (hs : (transactionBeat s).respStatus = 0xF#4) :
    (s.respValid = true ∧ s.respStatus = 0xF#4) ∨
    (s.fsm = .rPar ∧ s.tpTaken = true ∧ (transactionBeat s).pbit ≠ parity32 s.rdata ∧
      (transactionBeat s).respHasData = true ∧ (transactionBeat s).respData = s.rdata) := by
  obtain ⟨r, -, hb⟩ := transactionBeat_cases hf
  rcases hb with ⟨-, -, e⟩ | ⟨-, -, e⟩ | ⟨-, -, e⟩ | ⟨a, -, -, -, e⟩ | ⟨a, ht, -, -, e⟩
  · rw [e] at hv hs; exact .inl ⟨hv, hs⟩
  · rw [e] at hv hs; exact .inl ⟨hv, hs⟩
  · rw [e] at hv hs; exact .inl ⟨hv, hs⟩
  · rw [e] at hv hs; exact .inl ⟨hv, hs⟩
  · rcases advance_cases a (s := logTp (answerEvent r a) { s with tpTaken := false }) hf with
      ⟨f, ao, ar, rd, -, -, -, -, e'⟩ | ⟨-, -, e'⟩ | ⟨hp, e'⟩ | ⟨-, e'⟩
    · rw [e, e'] at hv hs; exact .inl ⟨hv, hs⟩
    · rw [e, e'] at hs; exact absurd hs (ackStatus_ne_invalid _)
    · rw [e, e'] at hs ⊢
      exact .inr ⟨hp, ht, ((parityStatus_invalid _ _).mp hs).symm, rfl, rfl⟩
    · rw [e, e'] at hs; exact absurd hs (ackStatus_ne_invalid _)

/-- Settles O26: outside the transaction states a move keeps the response registers or clears RESP_VALID. -/
theorem invalidOnlyFromParityMismatch : Obligations.InvalidOnlyFromParityMismatch := by
  intro s t h hv hs
  rcases step_cases h with ⟨-, rfl⟩ | ⟨hr, l, v, hrun, rfl⟩
  · cases hv
  by_cases hf : s.fsm.inTxn = true
  · rw [runEvent_txn (s := addSamples l (noteLine s)) hf] at hrun
    cases hrun
    exact transactionBeat_invalid (s := addSamples l (noteLine s)) hf hv hs
  · rcases (move_of_runEvent (s := addSamples l (noteLine s)) hr hrun).response_cases with
      ⟨h1, -, -, h4 | ⟨-, -, h4⟩⟩ | ⟨h1, -⟩
    · exact .inl ⟨h4.symm.trans hv, h1.symm.trans hs⟩
    · exact absurd (hv.symm.trans h4) (by simp)
    · refine absurd ?_ hf
      have h1 : s.fsm ∈ [.rData, .rPar, .wStat] := h1
      simp only [List.mem_cons, List.not_mem_nil, or_false] at h1
      rcases h1 with h1 | h1 | h1 <;> rw [h1] <;> rfl

end Sys2Proof.Proofs
end

section
/-!
PROOFS. The response decoder: what each of the four predicates reads of a beat, and their truth table.
-/

open Sys2Proof Sys2Proof.Machine

namespace Sys2Proof.Proofs

/-! ### The four predicates (R102 to R107) -/

/-- Each predicate with the field its output is and the status it tests for (R102 to R105). -/
def predicateRows : List (Instr × RspField × BitVec 4) :=
  [(.isAck, .isAck, 0x1#4), (.isWait, .isWait, 0x2#4), (.isFault, .isFault, 0x4#4), (.isInvalid, .isInvalid, 0xF#4)]

theorem mem_predicateRows {i : Instr} {f : RspField} {c : BitVec 4} : (i, f, c) ∈ predicateRows ↔
    (i = .isAck ∧ f = .isAck ∧ c = 0x1#4) ∨ (i = .isWait ∧ f = .isWait ∧ c = 0x2#4) ∨
    (i = .isFault ∧ f = .isFault ∧ c = 0x4#4) ∨ (i = .isInvalid ∧ f = .isInvalid ∧ c = 0xF#4) := by
  simp [predicateRows]

section Row

variable {i : Instr} {f : RspField} {c : BitVec 4} (h : (i, f, c) ∈ predicateRows)
include h

/-- A predicate's meaning is the caller's read of its output. -/
theorem exec_of_mem_predicateRows (s : State) : exec i s = sampleField f s := by
  rcases mem_predicateRows.mp h with ⟨rfl, rfl, -⟩ | ⟨rfl, rfl, -⟩ | ⟨rfl, rfl, -⟩ | ⟨rfl, rfl, -⟩ <;> rfl

/-- With a transaction's body the output is the equality test of its status. -/
theorem field_of_txn_body (o : BitVec 4) (e : ErrKind) (st : BitVec 4) (d : Option (BitVec 32)) :
    RspBeat.field { op := o, err := e, body := .txn st d } f = some (if st = c then 1 else 0) := by
  rcases mem_predicateRows.mp h with ⟨-, rfl, rfl⟩ | ⟨-, rfl, rfl⟩ | ⟨-, rfl, rfl⟩ | ⟨-, rfl, rfl⟩ <;>
    simp [RspBeat.field, bitValue_eq_ite, isAck, isWait, isFault, isInvalid, Config.invalidCode]

/-- With any other body the output has no value. -/
theorem field_of_ne_txn_body {b : RspBeat} (hb : ∀ st d, b.body ≠ .txn st d) : b.field f = none := by
  obtain ⟨o, e, body⟩ := b
  cases body with
  | txn st d => exact absurd rfl (hb st d)
  | _ => rcases mem_predicateRows.mp h with ⟨-, rfl, -⟩ | ⟨-, rfl, -⟩ | ⟨-, rfl, -⟩ | ⟨-, rfl, -⟩ <;> rfl

end Row

/-- The body of a beat is a transaction's exactly where a TXN has completed without error (R20, R107). -/
theorem rspBody_eq_txn_iff {s : State} {st : BitVec 4} {d : Option (BitVec 32)} :
    rspBody s = .txn st d ↔ (s.op = 0x3#4 ∧ s.err = .none ∧ s.respValid = true) ∧ s.respStatus = st ∧
      (if s.respHasData then some s.respData else none) = d := by
  unfold rspBody
  cases he : s.err with
  | none =>
    by_cases ho : s.op = 0x3#4
    · cases hv : s.respValid <;> simp [ho]
    · simp only [ho, if_false]
      split_ifs <;> simp
  | _ => simp

/-- A predicate's output in a beat of a completed TXN. -/
theorem portField_of_completed {s : State} {i : Instr} {f : RspField} {c : BitVec 4}
    (h : (i, f, c) ∈ predicateRows) (hr : s.rspValid = true) (ho : s.op = 0x3#4) (he : s.err = .none)
    (hv : s.respValid = true) : portField s f = some (if s.respStatus = c then 1 else 0) := by
  have hf : s.fsm = .rsp ∨ s.fsm = .pkOut := by simpa [State.rspValid] using hr
  rw [portField_of_offered hf, rspBody_eq_txn_iff.mpr ⟨⟨ho, he, hv⟩, rfl, rfl⟩]
  exact field_of_txn_body h ..

/-- A predicate's output has no value anywhere else (R107). -/
theorem portField_of_not_completed {s : State} {i : Instr} {f : RspField} {c : BitVec 4}
    (h : (i, f, c) ∈ predicateRows)
    (hn : ¬(s.rspValid = true ∧ s.op = 0x3#4 ∧ s.err = .none ∧ s.respValid = true)) : portField s f = none := by
  by_cases hf : s.fsm = .rsp ∨ s.fsm = .pkOut
  · rw [portField_of_offered hf]
    refine field_of_ne_txn_body h fun st d hb => hn ⟨by simpa [State.rspValid] using hf, ?_⟩
    exact (rspBody_eq_txn_iff.mp hb).1
  · exact portField_of_not_offered hf f

/-- Settles O28: each predicate is a read of its output, which has a value only in a completed TXN's beat. -/
theorem predicatesTestStatus : Obligations.PredicatesTestStatus := by
  intro s i f c h
  rw [exec_of_mem_predicateRows h, sampleField]
  constructor
  · intro hr ho he hv
    rw [portField_of_completed h hr ho he hv]
    rfl
  · intro hn
    rw [portField_of_not_completed h hn]

/-- Settles O29, status by status: a named one is a row of the table, any other fails all four tests. -/
theorem predicatesExclusive : Obligations.PredicatesExclusive := by
  intro st
  split_ifs with hack hwait hfault hinvalid
  · subst hack; rfl
  · subst hwait; rfl
  · subst hfault; rfl
  · subst hinvalid; rfl
  · simp [isAck, isWait, isFault, isInvalid, Config.invalidCode, hack, hwait, hfault, hinvalid]

end Sys2Proof.Proofs
end

section
/-!
PROOFS. The parity unit and the byte packer: PARITY counts set bits modulo 2, PACK_SIZE finds the least byte count,
and the command beat of PACK takes its length from that count or from BITS.
-/

open Sys2Proof Sys2Proof.Machine

namespace Sys2Proof.Proofs

/-! ### The operand buses as integers (R64) -/

theorem sintOpnd_of_nonneg {v : Opnd} (h : v.msb = false) : sintOpnd v = (v.toNat : Int) :=
  BitVec.toInt_eq_toNat_of_msb h

theorem sintOpnd_neg {v : Opnd} (h : v.msb = true) : sintOpnd v < 0 := BitVec.toInt_neg_of_msb_true h

/-! ### Parity (R110, R111) -/

theorem popcount_eq_countP (k n : Nat) : popcount k n = (List.range k).countP fun i => n.testBit i := by
  induction k with
  | zero => rfl
  | succ k ih => cases h : n.testBit k <;> simp [popcount, List.range_succ, ih, h]

theorem setBits_eq_popcount (v : Opnd) : setBits v = popcount Config.opndW v.toNat :=
  (popcount_eq_countP ..).symm

/-- Bits above the top of a number are not set, so counting them adds nothing. -/
theorem popcount_of_lt {n k : Nat} (hn : n < 2 ^ k) {m : Nat} (hm : k ≤ m) : popcount m n = popcount k n := by
  induction m, hm using Nat.le_induction with
  | base => rfl
  | succ m hkm ih =>
    have hbit : n.testBit m = false :=
      Nat.testBit_lt_two_pow (hn.trans_le (Nat.pow_le_pow_right (by decide) hkm))
    simp [popcount, hbit, ih]

/-- An exclusive or of bits is the parity of their count. -/
theorem toNat_xorBits (x : Data) (k : Nat) : (xorBits x k).toNat = popcount k x.toNat % 2 := by
  induction k with
  | zero => rfl
  | succ k ih =>
    have hxor (a b : Bool) : (a ^^ b).toNat = (a.toNat + b.toNat) % 2 := by cases a <;> cases b <;> rfl
    rw [xorBits, hxor, ih, popcount, Nat.mod_add_mod, BitVec.getLsbD]

theorem parity32_eq_popcount (x : Data) : parity32 x = BitVec.ofNat 1 (popcount 32 x.toNat % 2) := by
  rw [parity32, ← toNat_xorBits]
  cases xorBits x 32 <;> rfl

theorem parity_of_neg {n : Int} (h : n < 0) : parity n = none := if_pos h

theorem parity_natCast (n : Nat) : parity (n : Int) = some (BitVec.ofNat 1 (popcount Config.opndW n % 2)) :=
  if_neg (Int.natCast_nonneg n).not_gt

/-- Settles O34: a data word has no bit above bit 31, and the exclusive or of its bits is their count modulo 2. -/
theorem transactionParityIsParity : Obligations.TransactionParityIsParity := by
  intro x
  constructor
  · rw [parity_natCast, popcount_of_lt x.isLt (by decide), parity32_eq_popcount]
  · rw [parity32_eq_popcount, popcount_eq_countP]
    rfl

/-! ### The least byte count (R113) -/

theorem isLeastBytes_le {n k j : Nat} (h : IsLeastBytes n k) (hj : 1 ≤ j) (hn : n < 2 ^ (8 * j)) : k ≤ j := by
  obtain ⟨-, -, hmin⟩ := h
  exact hmin j hj hn

theorem isLeastBytes_unique {n k l : Nat} (hk : IsLeastBytes n k) (hl : IsLeastBytes n l) : k = l := by
  obtain ⟨hk1, hkn, hkmin⟩ := hk
  obtain ⟨hl1, hln, hlmin⟩ := hl
  exact Nat.le_antisymm (hkmin l hl1 hln) (hlmin k hk1 hkn)

/-- The search from `k` upwards finds the least byte count when none below `k` will do and the last one tried does. -/
theorem isLeastBytes_leastBytes {n fuel k : Nat} (hk : 1 ≤ k) (hmin : ∀ j, 1 ≤ j → n < 2 ^ (8 * j) → k ≤ j)
    (hn : n < 2 ^ (8 * (k + fuel))) : IsLeastBytes n (leastBytes n fuel k) := by
  induction fuel generalizing k with
  | zero => exact ⟨hk, hn, hmin⟩
  | succ fuel ih =>
    rw [leastBytes]
    split
    next hfits => exact ⟨hk, hfits, hmin⟩
    next hnot =>
      refine ih (by omega) (fun j hj hjn => ?_) (by rwa [Nat.add_right_comm, Nat.add_assoc])
      have hne : j ≠ k := fun h => hnot (h ▸ hjn)
      have := hmin j hj hjn
      omega

theorem packSize_of_neg {v : Int} (h : v < 0) : packSize v = none := if_pos h

/-- The size of a value that the operand bus can hold is its least byte count, 8 at most. -/
theorem packSize_natCast {n : Nat} (hn : n < 2 ^ Config.opndW) :
    ∃ k, packSize (n : Int) = some k ∧ IsLeastBytes n k ∧ k ≤ 8 := by
  rw [packSize, if_neg (Int.natCast_nonneg n).not_gt]
  by_cases h0 : n = 0
  · subst h0
    exact ⟨1, rfl, ⟨le_rfl, by decide, fun j hj _ => hj⟩, by decide⟩
  · have hleast : IsLeastBytes n (leastBytes n (Config.opndW / 8) 1) :=
      isLeastBytes_leastBytes le_rfl (fun j hj _ => hj) (hn.trans (by decide))
    exact ⟨_, by rw [if_neg (by omega), Int.toNat_natCast], hleast, isLeastBytes_le hleast (by decide) hn⟩

/-! ### The length of a PACK (R115, R116) -/

theorem packLength_of_neg {v : Int} (h : v < 0) (bits : Option Int) : packLength v bits = none := if_pos h

theorem packLength_of_bits_nonpos (v : Int) {b : Int} (h : b ≤ 0) : packLength v (some b) = none := by
  simp [packLength, h]

theorem packLength_absent (v : Int) : packLength v none = packSize v := by
  rw [packLength]
  split
  next hv => exact (packSize_of_neg hv).symm
  next => rfl

/-- With BITS the length is BITS / 8 rounded up. -/
theorem packLength_of_bits {v b : Int} {len : Nat} (hv : 0 ≤ v) (hb : 0 < b) (hlo : (8 * len : Int) - 8 < b)
    (hhi : b ≤ 8 * len) : packLength v (some b) = some len := by
  have hlen : (b.toNat + 7) / 8 = len := by omega
  simp [packLength, hv.not_gt, hb.not_ge, hlen]

/-! ### The three commands in IDLE (R112, R114, R117) -/

section Idle

variable {s : State} (hf : s.fsm = .idle)
include hf

theorem exec_parity_idle_none (h : parity (sintOpnd s.now.cmdVal) = none) :
    exec .parity s = .next (raise .invalidArgument none { s with op := 0x4 }) := by
  rw [exec, execParity, atCommandBeat_idle _ hf, h]

theorem exec_parity_idle_some {b : BitVec 1} (h : parity (sintOpnd s.now.cmdVal) = some b) :
    exec .parity s = .next (emit { s with op := 0x4, resBit := b, err := .none }) := by
  rw [exec, execParity, atCommandBeat_idle _ hf, h]

theorem exec_packSize_idle_none (h : packSize (sintOpnd s.now.cmdVal) = none) :
    exec .packSize s = .next (raise .invalidArgument none { s with op := 0x5 }) := by
  rw [exec, execPackSize, atCommandBeat_idle _ hf, h]

theorem exec_packSize_idle_some {k : Nat} (h : packSize (sintOpnd s.now.cmdVal) = some k) :
    exec .packSize s = .next (emit { s with op := 0x5, resSize := BitVec.ofNat Config.sizeW k, err := .none }) := by
  rw [exec, execPackSize, atCommandBeat_idle _ hf, h]

variable {bp : Bool}

theorem exec_pack_idle_none (h : packLength (sintOpnd s.now.cmdVal) (bitsOperand bp s.now.cmdBits) = none) :
    exec (.pack bp) s = .next (raise .invalidArgument none { s with op := 0x6 }) := by
  rw [exec, execPack, atCommandBeat_idle _ hf, h]

/-- A PACK of length `len` is refused above the limit and starts to stream otherwise. -/
theorem exec_pack_idle_some {len : Nat}
    (h : packLength (sintOpnd s.now.cmdVal) (bitsOperand bp s.now.cmdBits) = some len) :
    exec (.pack bp) s =
      if exceeds s.maxPackBytes len then .refused .packTooLong
      else .next { s with
        op := 0x6, pkVal := s.now.cmdVal, pkLen := BitVec.ofNat Config.opndW len, pkIdx := 0
        err := .none, fsm := .pkOut } := by
  rw [exec, execPack, atCommandBeat_idle _ hf, h]

end Idle

/-- Settles O33: parity has a value exactly on a value that is not negative, the count of its set bits modulo 2. -/
theorem parityCompletes : Obligations.ParityCompletes := by
  intro s hf
  constructor
  · intro hm
    rw [setBits_eq_popcount]
    have hparity := parity_natCast s.now.cmdVal.toNat
    rw [← sintOpnd_of_nonneg hm] at hparity
    exact ⟨_, exec_parity_idle_some hf hparity, rfl, rspPort_of_rsp rfl⟩
  · intro hm
    exact exec_parity_idle_none hf (parity_of_neg (sintOpnd_neg hm))

/-- Settles O35: the search for the size of a value that is not negative ends at its least byte count. -/
theorem packSizeCompletes : Obligations.PackSizeCompletes := by
  intro s hf
  constructor
  · intro hm
    obtain ⟨k, hsize, hleast, hk⟩ := packSize_natCast s.now.cmdVal.isLt
    rw [← sintOpnd_of_nonneg hm] at hsize
    exact ⟨_, k, exec_packSize_idle_some hf hsize, hleast, hk, rfl, rspPort_of_rsp rfl⟩
  · intro hm
    exact exec_packSize_idle_none hf (packSize_of_neg (sintOpnd_neg hm))

/-- PACK's two error causes: it has no length for a negative value or a BITS that is not positive. -/
theorem packLength_of_badArgument {v b : Opnd} {bp : Bool} (h : v.msb = true ∨ bp = true ∧ b.toInt ≤ 0) :
    packLength (sintOpnd v) (bitsOperand bp b) = none := by
  rcases h with hm | ⟨rfl, hb⟩
  · exact packLength_of_neg (sintOpnd_neg hm) _
  · exact packLength_of_bits_nonpos _ hb

/-- The length that PACK's operands ask for, with and without BITS. -/
theorem packLength_of_operands {v b : Opnd} {bp : Bool} {len : Nat} (hm : v.msb = false)
    (hbits : bp = true → 0 < b.toInt ∧ (8 * len : Int) - 8 < b.toInt ∧ b.toInt ≤ 8 * len)
    (hleast : bp = false → IsLeastBytes v.toNat len) :
    packLength (sintOpnd v) (bitsOperand bp b) = some len := by
  rw [sintOpnd_of_nonneg hm]
  cases bp with
  | true =>
    obtain ⟨hpos, hlo, hhi⟩ := hbits rfl
    exact packLength_of_bits (Int.natCast_nonneg _) hpos hlo hhi
  | false =>
    obtain ⟨k, hsize, hk, -⟩ := packSize_natCast v.isLt
    rw [isLeastBytes_unique (hleast rfl) hk, ← hsize]
    exact packLength_absent _

/-- Settles O36: PACK's operands have no length, or one that the limit then accepts or refuses. -/
theorem packStarts : Obligations.PackStarts := by
  intro s bp hf
  constructor
  · intro h
    exact exec_pack_idle_none hf (packLength_of_badArgument h)
  · intro len hm hbits hleast
    rw [exec_pack_idle_some hf (packLength_of_operands hm hbits hleast)]
    exact ⟨fun hx => if_pos hx, fun hx => if_neg (by simp [hx])⟩

end Sys2Proof.Proofs
end

section
/-!
PROOFS. Errors and stops: the illegal command word, the causes of INVALID_ARGUMENT, and the two outcomes of a step
that end a run.
-/

open Sys2Proof Sys2Proof.Machine

namespace Sys2Proof.Proofs

/-! ### The command beat (R18, R123) -/

/-- The OPs of the command words that decode (R62). -/
theorem cwOp_of_decodeCW {w : BitVec 16} {i : Instr} (hd : decodeCW w = .ok i) :
    cwOp w ∈ [0x1#4, 0x2#4, 0x3#4, 0x4#4, 0x5#4, 0x6#4] := by
  have hr := (decodeCW_cases hd).1
  simp only [decodeCW, hr, ne_eq, not_true_eq_false, if_false] at hd
  split_ifs at hd with h1 h2 h3 hD h4 h5 h6
  all_goals simp [*]

/-- A command word with a reserved OP, or with RSV other than 0, does not decode (R71). -/
theorem decodeCW_of_illegal {w : BitVec 16}
    (h : cwOp w ∈ [0x0#4, 0x7#4, 0x8#4, 0x9#4, 0xA#4, 0xB#4, 0xC#4, 0xD#4, 0xE#4, 0xF#4] ∨ cwRsv w ≠ 0#7) :
    ∃ e, decodeCW w = .error e := by
  cases hd : decodeCW w with
  | error e => exact ⟨e, rfl⟩
  | ok i =>
    rcases h with hop | hrsv
    · have hdisjoint : ∀ o ∈ [0x1#4, 0x2#4, 0x3#4, 0x4#4, 0x5#4, 0x6#4],
          o ∉ [0x0#4, 0x7#4, 0x8#4, 0x9#4, 0xA#4, 0xB#4, 0xC#4, 0xD#4, 0xE#4, 0xF#4] := by decide
      exact absurd hop (hdisjoint _ (cwOp_of_decodeCW hd))
    · exact absurd (decodeCW_cases hd).1 hrsv

section CommandWord

variable {s : State} (hf : s.fsm = .idle) (hv : s.now.cmdValid = true)
include hf hv

/-- The command beat of a word that does not decode. -/
theorem runEvent_illegal {e : DecodeError} (hd : decodeCW s.now.cmdWord = .error e) :
    runEvent s = .next (illegalCommand s.now.cmdWord s) := by
  simp [runEvent, fetched, fetchWord, decode, background, hf, hv, hd]

/-- The command beat of a word that decodes is the command's meaning. -/
theorem runEvent_command {i : Instr} (hd : decodeCW s.now.cmdWord = .ok i) : runEvent s = exec i s := by
  have hx : fetched s = some i := fetched_of_decode (c := .cw s.now.cmdWord) (by simp [fetchWord, hf, hv]) hd
  simp only [runEvent, hx, hf]
  cases exec i s <;> rfl

end CommandWord

theorem tpReqPort_of_rsp {s : State} (hf : s.fsm = .rsp) : s.tpReqPort = none := by
  simp [State.tpReqPort, stateRequest, hf]

/-- Settles O9: a word that does not decode is answered by `illegalCommand` alone. -/
theorem illegalCommandWord : Obligations.IllegalCommandWord := by
  intro s hf hq hv h
  obtain ⟨e, hd⟩ := decodeCW_of_illegal h
  have hs := step_quiet hq
  rw [runEvent_illegal (s := noteLine s) hf hv hd] at hs
  exact ⟨_, hs, rfl, rspPort_of_rsp rfl, tpReqPort_of_rsp rfl⟩

/-! ### The causes of INVALID_ARGUMENT (R121) -/

theorem parity_eq_none_iff {n : Int} : parity n = none ↔ n < 0 := by
  simp [parity]

theorem packSize_eq_none_iff {n : Int} : packSize n = none ↔ n < 0 := by
  unfold packSize
  split_ifs <;> simp [*]

/-- PACK's operands have no length exactly for its two error causes (R115, R116). -/
theorem packLength_eq_none_iff {v b : Opnd} {bp : Bool} :
    packLength (sintOpnd v) (bitsOperand bp b) = none ↔ v.toInt < 0 ∨ bp = true ∧ b.toInt ≤ 0 := by
  cases bp with
  | false =>
    have habsent : packLength (sintOpnd v) (bitsOperand false b) = packSize (sintOpnd v) := packLength_absent _
    rw [habsent, packSize_eq_none_iff]
    simp [sintOpnd]
  | true => simp [packLength, bitsOperand, sintOpnd, or_iff_not_imp_left]

/-- A utility with a negative VAL, or a PACK with a BITS that is not positive. -/
def BadArgument (i : Instr) (s : State) : Prop :=
  (i = .parity ∨ i = .packSize ∨ ∃ bp, i = .pack bp) ∧
    (s.now.cmdVal.toInt < 0 ∨ i = .pack true ∧ s.now.cmdBits.toInt ≤ 0)

theorem badArgument_parity_iff {s : State} : BadArgument .parity s ↔ parity (sintOpnd s.now.cmdVal) = none := by
  simp [BadArgument, parity_eq_none_iff, sintOpnd]

theorem badArgument_packSize_iff {s : State} :
    BadArgument .packSize s ↔ packSize (sintOpnd s.now.cmdVal) = none := by
  simp [BadArgument, packSize_eq_none_iff, sintOpnd]

theorem badArgument_pack_iff {s : State} {bp : Bool} : BadArgument (.pack bp) s ↔
    packLength (sintOpnd s.now.cmdVal) (bitsOperand bp s.now.cmdBits) = none := by
  simp [BadArgument, packLength_eq_none_iff]

section Causes

variable {s : State} (hf : s.fsm = .idle) {i : Instr}
include hf

/-- A bad argument is answered with the error alone. -/
theorem exec_of_badArgument (h : BadArgument i s) :
    ∃ o, exec i s = .next (raise .invalidArgument none { s with op := o }) := by
  rcases h.1 with rfl | rfl | ⟨bp, rfl⟩
  · exact ⟨_, exec_parity_idle_none hf (badArgument_parity_iff.mp h)⟩
  · exact ⟨_, exec_packSize_idle_none hf (badArgument_packSize_iff.mp h)⟩
  · exact ⟨_, exec_pack_idle_none hf (badArgument_pack_iff.mp h)⟩

/-- Outside the header phase a request kind changes nothing. -/
theorem headerBeat_idle (h : BitVec 8) : headerBeat h s = s := by
  simp [headerBeat, hf]

/-- In IDLE a read of the response port faults, a predicate's too. -/
theorem sampleField_idle (f : RspField) : sampleField f s = .fault (.noValue f) := by
  rw [sampleField, portField_of_not_offered (by simp [hf])]

/-- A command that ends with INVALID_ARGUMENT had a bad argument. -/
theorem badArgument_of_exec {t : State} (hx : exec i s = .next t) (hr : t.fsm = .rsp)
    (he : t.err = .invalidArgument) : BadArgument i s := by
  cases i with
  | buildHeader a p w => rw [exec_buildHeader_idle hf] at hx; cases hx; cases he
  | decodeHeader => rw [exec_decodeHeader_idle hf] at hx; cases hx; cases he
  | read a p => rw [exec_read_idle hf] at hx; cases hx; cases hr
  | write a p => rw [exec_write_idle hf] at hx; cases hx; cases hr
  | parity =>
    cases hp : parity (sintOpnd s.now.cmdVal) with
    | none => exact badArgument_parity_iff.mpr hp
    | some b => rw [exec_parity_idle_some hf hp] at hx; cases hx; cases he
  | packSize =>
    cases hp : packSize (sintOpnd s.now.cmdVal) with
    | none => exact badArgument_packSize_iff.mpr hp
    | some k => rw [exec_packSize_idle_some hf hp] at hx; cases hx; cases he
  | pack bp =>
    cases hp : packLength (sintOpnd s.now.cmdVal) (bitsOperand bp s.now.cmdBits) with
    | none => exact badArgument_pack_iff.mpr hp
    | some len =>
      rw [exec_pack_idle_some hf hp] at hx
      split at hx
      · cases hx
      · cases hx; cases he
  | dpRead p a | dpWrite p a | apRead p a | apWrite p a =>
    have ht : Host.Outcome.next (headerBeat _ s) = .next t := hx
    rw [headerBeat_idle hf] at ht
    cases ht
    rw [hf] at hr
    cases hr
  | isAck | isWait | isFault | isInvalid =>
    have ht : sampleField _ s = .next t := hx
    rw [sampleField_idle hf] at ht
    cases ht

end Causes

/-- Settles O38: a bad argument gives the error alone, and the error comes from nothing else. -/
theorem invalidArgumentCauses : Obligations.InvalidArgumentCauses := by
  intro i s t hf hx
  by_cases hbad : BadArgument i s
  · obtain ⟨o, ho⟩ := exec_of_badArgument hf hbad
    rw [ho] at hx
    cases hx
    exact ⟨iff_of_true ⟨rfl, rfl⟩ hbad, fun _ => ⟨rfl, rspPort_of_rsp rfl⟩⟩
  · have hno : ¬(t.fsm = .rsp ∧ t.err = .invalidArgument) :=
      fun ⟨hr, he⟩ => hbad (badArgument_of_exec hf hx hr he)
    exact ⟨iff_of_false hno hbad, fun h => absurd h hno⟩

/-! ### The outcomes of a step (R128) -/

/-- A PACK whose length exceeds MAX_PACK_BYTES (R117). -/
def PackTooLong (s : State) (bp : Bool) (len : Nat) : Prop :=
  packLength (sintOpnd s.now.cmdVal) (bitsOperand bp s.now.cmdBits) = some len ∧
    exceeds s.maxPackBytes len = true

/-- A command in IDLE goes on, but for a PACK above the limit. -/
theorem exec_command_outcomes {s : State} {w : BitVec 16} {i : Instr} (hf : s.fsm = .idle)
    (hd : decodeCW w = .ok i) : (∃ t, exec i s = .next t) ∨
      exec i s = .refused .packTooLong ∧ ∃ bp len, i = .pack bp ∧ PackTooLong s bp len := by
  by_cases hbad : BadArgument i s
  · obtain ⟨o, ho⟩ := exec_of_badArgument hf hbad
    exact .inl ⟨_, ho⟩
  obtain ⟨-, hi⟩ := decodeCW_cases hd
  rcases hi with ⟨a, p, d, rfl⟩ | rfl | ⟨a, p, rfl⟩ | ⟨a, p, rfl⟩ | rfl | rfl | ⟨bp, rfl⟩
  · exact .inl ⟨_, exec_buildHeader_idle hf a p d⟩
  · exact .inl ⟨_, exec_decodeHeader_idle hf⟩
  · exact .inl ⟨_, exec_read_idle hf a p⟩
  · exact .inl ⟨_, exec_write_idle hf a p⟩
  · obtain ⟨b, hb⟩ := Option.ne_none_iff_exists'.mp (mt badArgument_parity_iff.mpr hbad)
    exact .inl ⟨_, exec_parity_idle_some hf hb⟩
  · obtain ⟨k, hk⟩ := Option.ne_none_iff_exists'.mp (mt badArgument_packSize_iff.mpr hbad)
    exact .inl ⟨_, exec_packSize_idle_some hf hk⟩
  · obtain ⟨len, hlen⟩ := Option.ne_none_iff_exists'.mp (mt badArgument_pack_iff.mpr hbad)
    rw [exec_pack_idle_some hf hlen]
    by_cases hx : exceeds s.maxPackBytes len = true
    · exact .inr ⟨if_pos hx, bp, len, rfl, hlen, hx⟩
    · exact .inl ⟨_, if_neg hx⟩

/-- The block's own part of an event goes on, but for the command beat of a PACK above the limit. -/
theorem runEvent_outcomes (s : State) : (∃ t, runEvent s = .next t) ∨
    runEvent s = .refused .packTooLong ∧ ∃ bp len,
      (s.fsm = .idle ∧ s.now.cmdValid = true ∧ decodeCW s.now.cmdWord = .ok (.pack bp)) ∧ PackTooLong s bp len := by
  by_cases hf : s.fsm = .idle
  · cases hv : s.now.cmdValid with
    | false => exact .inl ⟨s, by simp [runEvent, fetched, fetchWord, background, hf, hv]⟩
    | true =>
      cases hd : decodeCW s.now.cmdWord with
      | error e => exact .inl ⟨_, runEvent_illegal hf hv hd⟩
      | ok i =>
        rw [runEvent_command hf hv hd]
        refine (exec_command_outcomes hf hd).imp_right ?_
        rintro ⟨href, bp, len, rfl, hlong⟩
        exact ⟨href, bp, len, ⟨hf, rfl, rfl⟩, hlong⟩
  · left
    rcases fsm_of_not_idle hf with htxn | hoffered
    · exact ⟨_, runEvent_txn htxn⟩
    · exact runEvent_goes_on hoffered

/-- An event without reset is the caller's read, which faults on a field without value, and the block's own part. -/
theorem step_of_not_rst {s : State} (hr : s.now.rst = false) :
    (∃ f, s.now.sample = some f ∧ portField s f = none ∧ step s = .fault (.noValue f)) ∨
    ∃ l, step s = andThen (runEvent (addSamples l (noteLine s))) fun t => .next t.consume := by
  cases hs : s.now.sample with
  | none =>
    refine .inr ⟨[], ?_⟩
    rw [addSamples_nil, step_quiet (by simp [Inputs.quiet, hr, hs])]
  | some f =>
    cases hv : portField s f with
    | none => exact .inl ⟨f, rfl, hv, step_of_noValue hr hs hv⟩
    | some v =>
      refine .inr ⟨[(f, v)], ?_⟩
      rw [step_of_sample hr hs, sampleField, portField_noteLine, hv, andThen_next]

/-- A step goes on, or it stops for one of its two reasons. -/
theorem step_outcomes (s : State) : (∃ t, step s = .next t) ∨
    (∃ f, step s = .fault (.noValue f) ∧ s.now.rst = false ∧ s.now.sample = some f ∧ portField s f = none) ∨
    step s = .refused .packTooLong ∧ ∃ bp len, CommandBeat s (.pack bp) ∧ PackTooLong s bp len := by
  cases hr : s.now.rst with
  | true => exact .inl ⟨_, by simp [step, event, hr]; rfl⟩
  | false =>
    rcases step_of_not_rst hr with ⟨f, hs, hv, hfault⟩ | ⟨l, hstep⟩
    · exact .inr (.inl ⟨f, hfault, rfl, hs, hv⟩)
    · rw [hstep]
      rcases runEvent_outcomes (addSamples l (noteLine s)) with ⟨t, ht⟩ | ⟨href, bp, len, ⟨hf, hv, hd⟩, hlong⟩
      · exact .inl ⟨_, by rw [ht]; rfl⟩
      · exact .inr (.inr ⟨by rw [href]; rfl, bp, len, ⟨hf, hr, hv, hd⟩, hlong⟩)

/-- Settles O11: `step_outcomes` names the two reasons. -/
theorem stopsOnlyWhereTheSpecSays : Obligations.StopsOnlyWhereTheSpecSays := by
  constructor
  · intro s r h
    rcases step_outcomes s with ⟨t, ht⟩ | ⟨f, hfault, hr, hs, hv⟩ | ⟨href, -⟩
    · rw [ht] at h; cases h
    · rw [hfault] at h; cases h; exact ⟨hr, f, hs, hv, rfl⟩
    · rw [href] at h; cases h
  · intro s r h
    rcases step_outcomes s with ⟨t, ht⟩ | ⟨f, hfault, -⟩ | ⟨href, hpack⟩
    · rw [ht] at h; cases h
    · rw [hfault] at h; cases h
    · rw [href] at h; cases h; exact ⟨rfl, hpack⟩

end Sys2Proof.Proofs
end

section
/-!
PROOFS. Reset and hazards: the reset of any state, the late answer that is no answer, and how the premise that the
line is framed is gained and lost.
-/

open Sys2Proof Sys2Proof.Machine

namespace Sys2Proof.Proofs

/-! ### Reset (R137) -/

/-- With rst the step is the reset alone. -/
theorem step_of_rst {s : State} (hr : s.now.rst = true) : step s = .next (hardReset (noteLine s)).consume := by
  simp [step, event, hr]

theorem rspPort_of_idle {s : State} (hf : s.fsm = .idle) : rspPort s = none := by
  simp [rspPort, State.rspValid, hf]

theorem tpReqPort_of_idle {s : State} (hf : s.fsm = .idle) : s.tpReqPort = none := by
  simp [State.tpReqPort, stateRequest, hf]

/-- Settles O39: a reset leads to IDLE, where neither port offers anything, and keeps the logs. -/
theorem resetFromAnyState : Obligations.ResetFromAnyState :=
  ⟨fun _ hr => ⟨_, step_of_rst hr, rfl, rfl, rfl, rfl, rfl, rspPort_of_idle rfl, tpReqPort_of_idle rfl, rfl, rfl⟩,
    rfl, rfl, rfl, rfl, rfl, tpReqPort_of_idle rfl⟩

/-! ### The late answer (R139) -/

/-- Two events with the same operand buses have the operands of every command in common. -/
theorem sameOperands_of_buses {w : BitVec 16} {i : Instr} (hd : decodeCW w = .ok i) {e e' : Inputs}
    (hdata : e.cmdData = e'.cmdData) (hhdr : e.cmdHdr = e'.cmdHdr) (hval : e.cmdVal = e'.cmdVal)
    (hbits : e.cmdBits = e'.cmdBits) : sameOperands i e e' := by
  obtain ⟨-, hi⟩ := decodeCW_cases hd
  rcases hi with ⟨a, p, d, rfl⟩ | rfl | ⟨a, p, rfl⟩ | ⟨a, p, rfl⟩ | rfl | rfl | ⟨bp, rfl⟩
  · trivial
  · exact hhdr
  · trivial
  · exact hdata
  · exact hval
  · exact hval
  · exact ⟨hval, fun _ => hbits⟩

/-- Without cmd_valid an event in IDLE does nothing (R138). -/
theorem runEvent_idle {s : State} (hf : s.fsm = .idle) (hv : s.now.cmdValid = false) : runEvent s = .next s := by
  simp [runEvent, fetched, fetchWord, background, hf, hv]

/-- In IDLE the block's own part looks at cmd_valid, the command word and the operand buses of its command only. -/
theorem runEvent_idle_congr {s : State} (hf : s.fsm = .idle) {e e' : Inputs} (rest : List Inputs)
    (hvalid : e.cmdValid = e'.cmdValid) (hword : e.cmdWord = e'.cmdWord)
    (hops : ∀ i, decodeCW e.cmdWord = .ok i → sameOperands i e e') :
    andThen (runEvent { s with inputs := e :: rest }) (fun t => .next t.consume) =
    andThen (runEvent { s with inputs := e' :: rest }) (fun t => .next t.consume) := by
  cases hv : e.cmdValid with
  | false =>
    rw [runEvent_idle (s := { s with inputs := e :: rest }) hf hv,
      runEvent_idle (s := { s with inputs := e' :: rest }) hf (hvalid ▸ hv)]
    rfl
  | true =>
    have hv' : e'.cmdValid = true := hvalid ▸ hv
    cases hd : decodeCW e.cmdWord with
    | error x =>
      rw [runEvent_illegal (s := { s with inputs := e :: rest }) hf hv hd,
        runEvent_illegal (s := { s with inputs := e' :: rest }) hf hv' (hword ▸ hd)]
      simp only [now_cons, hword]
      rfl
    | ok i =>
      rw [runEvent_command (s := { s with inputs := e :: rest }) hf hv hd,
        runEvent_command (s := { s with inputs := e' :: rest }) hf hv' (hword ▸ hd)]
      exact exec_of_sameOperands hf (hops i hd) rest

/-- Where a beat is offered the block's own part looks at rsp_ready only. -/
theorem runEvent_offered_consume {s : State} (hf : s.fsm = .rsp ∨ s.fsm = .pkOut) (e : Inputs) (rest : List Inputs) :
    andThen (runEvent { s with inputs := e :: rest }) (fun t => .next t.consume) =
      responseBeat e.rspReady { s with inputs := rest } := by
  rw [runEvent_eq_responseBeat (s := { s with inputs := e :: rest }) hf, responseBeat_consume, now_cons, consume_cons]

/-- Settles O23: with the mark set the event has no answer, whether or not a response is offered, and no state
looks at the response but through its answer. -/
theorem lateAnswerIgnored : Obligations.LateAnswerIgnored := by
  intro s e rest
  refine step_congr rfl rfl rfl rfl fun u _ _ => ?_
  by_cases hf : u.fsm = .idle
  · exact runEvent_idle_congr hf rest rfl rfl fun i hd => sameOperands_of_buses hd rfl rfl rfl rfl
  rcases fsm_of_not_idle hf with htxn | hoffered
  · obtain ⟨r, hr⟩ := Option.isSome_iff_exists.mp ((isSome_stateRequest u).trans htxn)
    rw [runEvent_txn_consume hr, runEvent_txn_consume hr]
    simp [Inputs.answer]
  · rw [runEvent_offered_consume hoffered, runEvent_offered_consume hoffered]

/-! ### The premise that the line is framed (R141, R143, R145) -/

/-- The caller's acts give the premise only by a line reset outside a transaction. -/
theorem lineFramed_of_noteLine {s : State} (h : (noteLine s).lineFramed = true) :
    s.lineFramed = true ∨ s.now.lineReset = true ∧ s.usesTransport = false := by
  cases hl : s.now.lineReset <;> simp [noteLine, hl] at h
  · exact .inl h.1
  · exact .inr ⟨rfl, h⟩

/-- Another user of the line during a transaction takes the premise. -/
theorem noteLine_lineFramed_of_foreign {s : State} (hu : s.usesTransport = true)
    (h : s.now.foreignUse = true ∨ s.now.lineReset = true) : (noteLine s).lineFramed = false := by
  rcases h with h | h <;> simp [noteLine, hu, h]

/-- A transport beat keeps the premise, or it takes it. -/
theorem TransportMove.lineFramed_cases {s t : State} (h : TransportMove s t) :
    t.lineFramed = s.lineFramed ∨ t.lineFramed = false := by
  cases h with
  | fail a _ _ _ => exact .inr rfl
  | take r _ => exact .inl rfl
  | advance e f ao ar rd _ _ _ _ => exact .inl rfl
  | dataEnd e d _ _ => exact .inl rfl
  | parityEnd e b _ => exact .inl rfl
  | writeEnd e c _ => exact .inl rfl

/-- A transport beat that leads to the error beat of a transaction takes the premise (R99, R141). -/
theorem TransportMove.lineFramed_of_abort {s t : State} (h : TransportMove s t) (hf : s.fsm.inTxn = true)
    (he : t.err = .transportError) (hr : t.fsm = .rsp) : t.lineFramed = false := by
  cases h with
  | fail a _ _ _ => rfl
  | take r _ => rw [show s.fsm = .rsp from hr] at hf; cases hf
  | advance e f ao ar rd _ hx _ _ => rw [show f = .rsp from hr] at hx; cases hx
  | dataEnd e d _ _ => cases he
  | parityEnd e b _ => cases he
  | writeEnd e c _ => cases he

/-- The block itself never gives the premise. -/
theorem Move.lineFramed_of_lineFramed {s t : State} (h : Move s t) (hl : t.lineFramed = true) :
    s.lineFramed = true := by
  cases h with
  | wait => exact hl
  | command i t _ hm => rwa [hm.frame] at hl
  | illegal _ _ => exact hl
  | transport t _ hm =>
    rcases hm.lineFramed_cases with e | e
    · exact e ▸ hl
    · rw [e] at hl; cases hl
  | takeRsp l _ _ => simpa using hl
  | takeByte _ _ => simpa using hl

/-- After a step the premise holds only if it held after the caller's acts. -/
theorem lineFramed_of_step {s t : State} (h : step s = .next t) (hl : t.lineFramed = true) :
    (noteLine s).lineFramed = true := by
  rcases step_move_cases h with ⟨-, rfl⟩ | ⟨-, l, v, hm, rfl⟩
  · simp [hardReset] at hl
    exact hl.1
  · exact hm.lineFramed_of_lineFramed hl

/-- A transaction state is left for an error beat by an abort alone, which takes the premise. -/
theorem lineFramed_of_step_abort {s t : State} (hf : s.fsm.inTxn = true) (hr : s.now.rst = false)
    (h : step s = .next t) (he : t.err = .transportError) (ht : t.fsm = .rsp) : t.lineFramed = false := by
  obtain ⟨l, v, hm, rfl⟩ := move_of_step hr h
  cases hm with
  | transport _ _ hm => exact hm.lineFramed_of_abort hf he ht
  | wait => rw [show s.fsm = .rsp from ht] at hf; cases hf
  | command i _ hb _ => rw [show s.fsm = .idle from hb.1] at hf; cases hf
  | illegal hi _ => rw [show s.fsm = .idle from hi] at hf; cases hf
  | takeRsp l hi _ => rw [show s.fsm = .rsp from hi] at hf; cases hf
  | takeByte hi _ => rw [show s.fsm = .pkOut from hi] at hf; cases hf

/-- Settles O40: the caller's acts alone give the premise; they, a reset and an abort take it. -/
theorem framingPremise : Obligations.FramingPremise := by
  intro s t h
  refine ⟨fun hl => lineFramed_of_noteLine (lineFramed_of_step h hl), fun hr hf => ?_, fun hu hx => ?_,
    fun hf hr he ht => lineFramed_of_step_abort hf hr h he ht⟩
  · rw [step_of_rst hr] at h
    cases h
    simp [hardReset, hf]
  · have hn := noteLine_lineFramed_of_foreign hu hx
    by_contra hl
    rw [lineFramed_of_step h (eq_true_of_ne_false hl)] at hn
    cases hn

end Sys2Proof.Proofs
end
